-- ==== Sys2Proof/Word.lean ====
section
/-! DEFINITION. Word types: the 32-bit command word, the signed duration entry, the logical level (rules R7, R80, R12). -/

namespace Sys2Proof

/-- One whole 32-bit word of the command stream (rules R61, R100); also a timestamp, a gap, a carrier in hertz and a
capture entry (rule R7). -/
abbrev Word := BitVec 32

/-- A PulseSequence duration entry: one signed 32-bit two's-complement number of microseconds (rules R7, R80). -/
abbrev Duration := BitVec 32

/-- A logical level of a pin: `true` is 1, active; `false` is 0, inactive (rules R12, R36, decision D34). -/
abbrev Level := Bool

end Sys2Proof
end

