-- ==== Sys2Proof/Syntax.lean ====
section
/-! DEFINITION. The instructions: one constructor per row of spec/opcode_table.json (rules R103, R104, R108). -/

namespace Sys2Proof

/-- A decoder's mode, bit 7 of `A` of `RX.REG` (rules R45, R103). -/
inductive DecMode where
  | exact
  | dump
  deriving DecidableEq, Repr

/-- Commands of the host and event records of the other agents. Sub-operands carry the width of their header field, operand
words are whole words (rules R100, R103, R104). -/
inductive Instr where
  /-- `ENC.NEC`, rule R121 -/
  | encNec (nbits : BitVec 16) (address command : Word)
  /-- `ENC.LG`, rule R122 -/
  | encLg (nbits : BitVec 16) (address data : Word)
  /-- `ENC.PANASONIC`, rule R123 -/
  | encPanasonic (nbits : BitVec 16) (address data : Word)
  /-- `RAW`, rule R128; the header's `count` is the length of `entries` -/
  | raw (carrier : Word) (entries : List Duration)
  /-- `REPEAT`, rule R132 -/
  | repeatSeq (n : BitVec 16) (gap : Word)
  /-- `LEN`, rule R136 -/
  | len
  /-- `TX.CONFIG`, rule R151 -/
  | txConfig (duty : BitVec 8) (pin : BitVec 16)
  /-- `TX.SETUP`, rule R152 -/
  | txSetup
  /-- `TX.SEND`, rule R155 -/
  | txSend
  /-- `SW.CREATE`, rule R181 -/
  | swCreate (name : BitVec 16)
  /-- `SW.ON`, rule R182 -/
  | swOn (handle : BitVec 16)
  /-- `SW.OFF`, rule R183 -/
  | swOff (handle : BitVec 16)
  /-- `RX.SETUP`, rule R201 -/
  | rxSetup (pin : BitVec 16)
  /-- `RX.REG`, rule R202; `vendor` is the 4-bit code as it stands in the header -/
  | rxReg (mode : DecMode) (vendor : BitVec 4) (nbits : BitVec 16) (expAddress expData : Word)
  /-- `RX.DISPATCH`, rule R210 -/
  | rxDispatch
  /-- `EV.EDGE`, rule R204 -/
  | evEdge (level : Level) (t : Word)
  /-- `EV.IDLE`, rule R208 -/
  | evIdle (t : Word)
  /-- `EV.PLAY`, rule R170 -/
  | evPlay
  /-- `EV.RESUME`, rule R172 -/
  | evResume
  deriving DecidableEq, Repr

end Sys2Proof
end

