-- ==== Sys2Proof/WellFormed.lean ====
section
/-! DEFINITION. Which instruction terms the command words can spell. -/

namespace Sys2Proof

/-- Every operand's width is in its type but one: `RAW`'s `count` is the 16-bit field `B` (rules R100, R103), so it spells at
most 65535 entries. -/
def Instr.wellFormed : Instr → Bool
  | .encNec _ _ _ => true
  | .encLg _ _ _ => true
  | .encPanasonic _ _ _ => true
  | .raw _ entries => decide (entries.length < 2 ^ 16)
  | .repeatSeq _ _ => true
  | .len => true
  | .txConfig _ _ => true
  | .txSetup => true
  | .txSend => true
  | .swCreate _ => true
  | .swOn _ => true
  | .swOff _ => true
  | .rxSetup _ => true
  | .rxReg _ _ _ _ _ => true
  | .rxDispatch => true
  | .evEdge _ _ => true
  | .evIdle _ => true
  | .evPlay => true
  | .evResume => true

end Sys2Proof
end

