-- ==== Sys2Proof/Decode.lean ====
section
/-! DEFINITION. Command words: cutting a stream into commands, the decoder (total, rejecting by name) and the encoder
(rules R100 to R108). -/

namespace Sys2Proof

/-- The header word's three fields: `OP` bits 31:24, `A` bits 23:16, `B` bits 15:0 (rule R100). -/
structure Header where
  op : BitVec 8
  a : BitVec 8
  b : BitVec 16
  deriving DecidableEq, Repr

/-- The fields of a header word (rule R100). -/
def Header.ofWord (w : Word) : Header :=
  { op := w.extractLsb' 24 8, a := w.extractLsb' 16 8, b := w.extractLsb' 0 16 }

/-- The header word of three fields (rule R100). -/
def Header.toWord (h : Header) : Word := h.op ++ h.a ++ h.b

/-- How many operand words follow a header, a function of the header alone (rule R101). -/
def Header.operandCount (h : Header) : Nat :=
  if h.op = 0x01#8 ∨ h.op = 0x21#8 then 2
  else if h.op = 0x02#8 then 1 + h.b.toNat
  else if h.op = 0x03#8 ∨ h.op = 0x80#8 ∨ h.op = 0x81#8 then 1
  else 0

/-- Why a header word is no instruction (rules R102, R106). -/
inductive IllegalHeader where
  /-- rule R106 (a): `OP` is not in the table of rule R103 -/
  | undefinedOp
  /-- rule R106 (b): a field, or bits of one, that must be 0 are not -/
  | nonzeroField
  /-- rule R106 (c), rule R102: `OP = 0x01` with a vendor code other than 1, 2, 3 -/
  | reservedVendor
  deriving DecidableEq, Repr

/-- The operations of rule R103, without their operands. -/
inductive Opc where
  | encNec | encLg | encPanasonic | raw | repeatSeq | len
  | txConfig | txSetup | txSend | swCreate | swOn | swOff
  | rxSetup | rxReg | rxDispatch
  | evEdge | evIdle | evPlay | evResume
  deriving DecidableEq, Repr

/-- An operation, if the fields that must be 0 are (rule R106 (b)). -/
def Opc.ifZero (o : Opc) (zero : Bool) : Except IllegalHeader Opc :=
  if zero then .ok o else .error .nonzeroField

/-- The operation a header names (rules R102, R103, R106). `RX.REG`'s vendor code and every bit count, duty, handle and
count are operands: their ranges are the instruction's own checks. -/
def Header.opc (h : Header) : Except IllegalHeader Opc :=
  if h.op = 0x01#8 then
    if h.a = 0x01#8 then .ok .encNec
    else if h.a = 0x02#8 then .ok .encLg
    else if h.a = 0x03#8 then .ok .encPanasonic
    else .error .reservedVendor
  else if h.op = 0x02#8 then Opc.raw.ifZero (h.a == 0)
  else if h.op = 0x03#8 then Opc.repeatSeq.ifZero (h.a == 0)
  else if h.op = 0x04#8 then Opc.len.ifZero (h.a == 0 && h.b == 0)
  else if h.op = 0x10#8 then .ok .txConfig
  else if h.op = 0x11#8 then Opc.txSetup.ifZero (h.a == 0 && h.b == 0)
  else if h.op = 0x12#8 then Opc.txSend.ifZero (h.a == 0 && h.b == 0)
  else if h.op = 0x18#8 then Opc.swCreate.ifZero (h.a == 0)
  else if h.op = 0x19#8 then Opc.swOn.ifZero (h.a == 0)
  else if h.op = 0x1A#8 then Opc.swOff.ifZero (h.a == 0)
  else if h.op = 0x20#8 then Opc.rxSetup.ifZero (h.a == 0)
  else if h.op = 0x21#8 then Opc.rxReg.ifZero (h.a.extractLsb' 4 3 == 0)
  else if h.op = 0x22#8 then Opc.rxDispatch.ifZero (h.a == 0 && h.b == 0)
  else if h.op = 0x80#8 then Opc.evEdge.ifZero (h.a.extractLsb' 1 7 == 0 && h.b == 0)
  else if h.op = 0x81#8 then Opc.evIdle.ifZero (h.a == 0 && h.b == 0)
  else if h.op = 0x82#8 then Opc.evPlay.ifZero (h.a == 0 && h.b == 0)
  else if h.op = 0x83#8 then Opc.evResume.ifZero (h.a == 0 && h.b == 0)
  else .error .undefinedOp

/-- What the decoder reads at the front of a stream. -/
inductive Decoded where
  /-- an instruction and the words after it -/
  | instr (i : Instr) (rest : List Word)
  /-- a command that is no instruction, its operand words consumed (rules R101, R106), and the words after it -/
  | illegal (why : IllegalHeader) (rest : List Word)
  /-- the stream ends inside a command's operand words (rule R107) -/
  | truncated
  /-- the stream holds no word -/
  | ended
  deriving DecidableEq, Repr

/-- An instruction with no operand word. -/
def operands0 (i : Instr) (ws : List Word) : Decoded := .instr i ws

/-- An instruction with one operand word. -/
def operands1 (k : Word → Instr) : List Word → Decoded
  | w1 :: rest => .instr (k w1) rest
  | [] => .truncated

/-- An instruction with two operand words. -/
def operands2 (k : Word → Word → Instr) : List Word → Decoded
  | w1 :: w2 :: rest => .instr (k w1 w2) rest
  | _ => .truncated

/-- `RAW`'s operand words: the carrier word, then `count` duration words (rules R101, R103). -/
def operandsRaw (count : Nat) : List Word → Decoded
  | carrier :: ws =>
    if ws.length < count then .truncated else .instr (.raw carrier (ws.take count)) (ws.drop count)
  | [] => .truncated

/-- An illegal command's operand words are consumed and ignored (rules R101, R106). -/
def operandsIllegal (why : IllegalHeader) (count : Nat) (ws : List Word) : Decoded :=
  if ws.length < count then .truncated else .illegal why (ws.drop count)

/-- `RX.REG`'s mode, bit 7 of `A` (rule R103). -/
def decModeOf (a : BitVec 8) : DecMode := if a.getLsbD 7 then .dump else .exact

/-- The decoder: total on every list of words (rule R107). -/
def decode : List Word → Decoded
  | [] => .ended
  | w :: ws =>
    let h := Header.ofWord w
    match h.opc with
    | .error why => operandsIllegal why h.operandCount ws
    | .ok .encNec => operands2 (.encNec h.b) ws
    | .ok .encLg => operands2 (.encLg h.b) ws
    | .ok .encPanasonic => operands2 (.encPanasonic h.b) ws
    | .ok .raw => operandsRaw h.b.toNat ws
    | .ok .repeatSeq => operands1 (.repeatSeq h.b) ws
    | .ok .len => operands0 .len ws
    | .ok .txConfig => operands0 (.txConfig h.a h.b) ws
    | .ok .txSetup => operands0 .txSetup ws
    | .ok .txSend => operands0 .txSend ws
    | .ok .swCreate => operands0 (.swCreate h.b) ws
    | .ok .swOn => operands0 (.swOn h.b) ws
    | .ok .swOff => operands0 (.swOff h.b) ws
    | .ok .rxSetup => operands0 (.rxSetup h.b) ws
    | .ok .rxReg => operands2 (.rxReg (decModeOf h.a) (h.a.extractLsb' 0 4) h.b) ws
    | .ok .rxDispatch => operands0 .rxDispatch ws
    | .ok .evEdge => operands1 (.evEdge (h.a.getLsbD 0)) ws
    | .ok .evIdle => operands1 .evIdle ws
    | .ok .evPlay => operands0 .evPlay ws
    | .ok .evResume => operands0 .evResume ws

/-- `RX.REG`'s sub-operand `A`: bit 7 the mode, bits 6:4 zero, bits 3:0 the vendor code (rule R103). -/
def rxRegA (mode : DecMode) (vendor : BitVec 4) : BitVec 8 :=
  (match mode with | .exact => 0#1 | .dump => 1#1) ++ 0#3 ++ vendor

/-- `EV.EDGE`'s sub-operand `A`: bits 7:1 zero, bit 0 the new level (rule R103). -/
def evEdgeA (level : Level) : BitVec 8 := 0#7 ++ BitVec.ofBool level

/-- The header of an instruction (rule R103). -/
def Instr.header : Instr → Header
  | .encNec nbits _ _ => { op := 0x01, a := 0x01, b := nbits }
  | .encLg nbits _ _ => { op := 0x01, a := 0x02, b := nbits }
  | .encPanasonic nbits _ _ => { op := 0x01, a := 0x03, b := nbits }
  | .raw _ entries => { op := 0x02, a := 0, b := BitVec.ofNat 16 entries.length }
  | .repeatSeq n _ => { op := 0x03, a := 0, b := n }
  | .len => { op := 0x04, a := 0, b := 0 }
  | .txConfig duty pin => { op := 0x10, a := duty, b := pin }
  | .txSetup => { op := 0x11, a := 0, b := 0 }
  | .txSend => { op := 0x12, a := 0, b := 0 }
  | .swCreate name => { op := 0x18, a := 0, b := name }
  | .swOn handle => { op := 0x19, a := 0, b := handle }
  | .swOff handle => { op := 0x1A, a := 0, b := handle }
  | .rxSetup pin => { op := 0x20, a := 0, b := pin }
  | .rxReg mode vendor nbits _ _ => { op := 0x21, a := rxRegA mode vendor, b := nbits }
  | .rxDispatch => { op := 0x22, a := 0, b := 0 }
  | .evEdge level _ => { op := 0x80, a := evEdgeA level, b := 0 }
  | .evIdle _ => { op := 0x81, a := 0, b := 0 }
  | .evPlay => { op := 0x82, a := 0, b := 0 }
  | .evResume => { op := 0x83, a := 0, b := 0 }

/-- The operand words of an instruction, in order (rules R62 (d), R103). -/
def Instr.operandWords : Instr → List Word
  | .encNec _ address command => [address, command]
  | .encLg _ address data => [address, data]
  | .encPanasonic _ address data => [address, data]
  | .raw carrier entries => carrier :: entries
  | .repeatSeq _ gap => [gap]
  | .len => []
  | .txConfig _ _ => []
  | .txSetup => []
  | .txSend => []
  | .swCreate _ => []
  | .swOn _ => []
  | .swOff _ => []
  | .rxSetup _ => []
  | .rxReg _ _ _ expAddress expData => [expAddress, expData]
  | .rxDispatch => []
  | .evEdge _ t => [t]
  | .evIdle t => [t]
  | .evPlay => []
  | .evResume => []

/-- The words of an instruction: the header word, then the operand words (rules R62 (d), R100, R103). -/
def encode (i : Instr) : List Word := i.header.toWord :: i.operandWords

/-- The words of the instruction whose bits are `w`, numbered from the least significant bit of the header word on; bits from
`nbits` up are 0. -/
def tableWords (nbits w : Nat) : List Word :=
  let v := w % 2 ^ nbits
  (List.range (1 + (Header.ofWord (BitVec.ofNat 32 v)).operandCount)).map fun k => BitVec.ofNat 32 (v >>> (32 * k))

/-- The instruction the decoder reads from those words. -/
def decodeTableWord (nbits w : Nat) : Option Instr :=
  match decode (tableWords nbits w) with
  | .instr i _ => some i
  | .illegal _ _ => none
  | .truncated => none
  | .ended => none

end Sys2Proof
end

