-- ==== Sys2Proof/Config.lean ====
section
/-! DEFINITION. Config: what an implementation fixes before reset (rules R6, R31), the protocol descriptor, and the ranges the
spec gives each parameter. The spec leaves no free value: no opaque constant stands here. -/

namespace Sys2Proof

/-- The transmission backend, selected once at initialization (rules R6, R150). -/
inductive Backend where
  | peripheral
  | bitbang
  deriving DecidableEq, Repr

/-- The three vendors in scope (rules R5, R102). -/
inductive Vendor where
  | nec
  | lg
  | panasonic
  deriving DecidableEq, Repr

/-- A protocol descriptor (rule R31): constant data of one vendor. -/
structure Descriptor where
  /-- `CARRIER_HZ` -/
  carrierHz : BitVec 32
  /-- `HDR_MARK_US` -/
  hdrMarkUs : Nat
  /-- `HDR_SPACE_US` -/
  hdrSpaceUs : Nat
  /-- `BIT_IN_MARK`: the mark's length is the bit -/
  bitInMark : Bool
  /-- `BIT_FIXED_US` -/
  bitFixedUs : Nat
  /-- `BIT_ZERO_US` -/
  bitZeroUs : Nat
  /-- `BIT_ONE_US` -/
  bitOneUs : Nat
  /-- `HAS_STOP` -/
  hasStop : Bool
  /-- `STOP_MARK_US` -/
  stopMarkUs : Nat
  /-- `MSB_FIRST` -/
  msbFirst : Bool
  /-- `ADDR_BITS` -/
  addrBits : Nat
  /-- `NBITS_MIN` -/
  nbitsMin : Nat
  /-- `NBITS_MAX` -/
  nbitsMax : Nat
  deriving DecidableEq, Repr

/-- A duration the block can hold as an entry: positive, and its magnitude fits 31 bits (rules R7, R31). -/
abbrev usLegal (v : Nat) : Prop := 1 ≤ v ∧ v < 2 ^ 31

/-- The field types of rule R31. -/
structure Descriptor.Valid (P : Descriptor) : Prop where
  hdrMark : usLegal P.hdrMarkUs
  hdrSpace : usLegal P.hdrSpaceUs
  bitFixed : usLegal P.bitFixedUs
  bitZero : usLegal P.bitZeroUs
  bitOne : usLegal P.bitOneUs
  stopMark : usLegal P.stopMarkUs
  addr : P.addrBits ≤ 32
  addrBelow : P.addrBits < P.nbitsMin
  ordered : P.nbitsMin ≤ P.nbitsMax
  dataFits : P.nbitsMax ≤ P.addrBits + 32
  atMost48 : P.nbitsMax ≤ 48

/-- The implementation parameters of rule R6, fixed before reset and constant afterwards. -/
structure Config where
  /-- `BACKEND` -/
  backend : Backend
  /-- `TOL_PERCENT` -/
  tolPercent : Nat
  /-- `IDLE_US` -/
  idleUs : Nat
  /-- `CAP_CAPACITY` -/
  capCapacity : Nat
  /-- `SEQ_CAPACITY` -/
  seqCapacity : Nat
  /-- `NSLOT` -/
  nslot : Nat
  /-- `NDEC` -/
  ndec : Nat
  /-- `BASE_CLOCK_HZ` -/
  baseClockHz : Nat
  /-- the parameter `CLOCK_DIVIDER`, which reset loads into the register of that name (rule R29) -/
  clockDivider : BitVec 8
  /-- `ITEM_TICK_MAX` -/
  itemTickMax : Nat
  /-- `DUTY_RESET` -/
  dutyReset : BitVec 8
  /-- `DESC[NEC]` -/
  nec : Descriptor
  /-- `DESC[LG]` -/
  lg : Descriptor
  /-- `DESC[PANASONIC]` -/
  panasonic : Descriptor
  deriving DecidableEq, Repr

/-- The table `ROM`, indexed by vendor (rules R31, R60, R102). -/
def Config.desc (c : Config) : Vendor → Descriptor
  | .nec => c.nec
  | .lg => c.lg
  | .panasonic => c.panasonic

/-- The ranges the spec gives the parameters: the table of rule R6; `SEQ_CAPACITY ≤ 65536` (rule R7's bound on
`total_length`); the duty range of rule R27; a tick rate that fits its 32-bit register (rules R29, R246). DEDUCED, safe
(assumption 4): `ITEM_TICK_MAX ≥ 1` (an item has `1 ≤ ticks ≤ ITEM_TICK_MAX`, rule R93), and at most 65536 slots and decoders
(their numbers are 16-bit results, rule R103). -/
structure Config.Valid (c : Config) : Prop where
  tol : c.tolPercent ≤ 99
  capMin : 99 ≤ c.capCapacity
  seqMin : 99 ≤ c.seqCapacity
  seqMax : c.seqCapacity ≤ 65536
  slots : c.nslot ≤ 65536
  decs : c.ndec ≤ 65536
  divider : 1 ≤ c.clockDivider.toNat
  rateFits : c.baseClockHz / (c.clockDivider.toNat * 100000) < 2 ^ 32
  itemMax : 1 ≤ c.itemTickMax
  duty : 1 ≤ c.dutyReset.toNat ∧ c.dutyReset.toNat ≤ 100
  nec : c.nec.Valid
  lg : c.lg.Valid
  panasonic : c.panasonic.Valid

end Sys2Proof
end

