-- ==== Sys2Proof/Machine/Rom.lean ====
section
/-! DEFINITION. The values this spec gives the parameters: the three protocol descriptors (rules R32 to R34) and the
parameter table (rule R6). Every statement about the machine is made for every configuration; these are the values State.reset
launches with. -/

namespace Sys2Proof.Machine

/-- `DESC[NEC]` (rule R32). -/
def descNEC : Descriptor where
  carrierHz := 38000
  hdrMarkUs := 9000
  hdrSpaceUs := 4500
  bitInMark := false
  bitFixedUs := 560
  bitZeroUs := 560
  bitOneUs := 1690
  hasStop := true
  stopMarkUs := 560
  msbFirst := true
  addrBits := 16
  nbitsMin := 32
  nbitsMax := 32

/-- `DESC[LG]` (rule R33); PRESUMED by the spec itself (assumption 13). -/
def descLG : Descriptor where
  carrierHz := 38000
  hdrMarkUs := 8000
  hdrSpaceUs := 4000
  bitInMark := false
  bitFixedUs := 600
  bitZeroUs := 550
  bitOneUs := 1600
  hasStop := true
  stopMarkUs := 600
  msbFirst := true
  addrBits := 0
  nbitsMin := 1
  nbitsMax := 32

/-- `DESC[PANASONIC]` (rule R34); PRESUMED by the spec itself (assumption 13). -/
def descPanasonic : Descriptor where
  carrierHz := 35000
  hdrMarkUs := 3502
  hdrSpaceUs := 1750
  bitInMark := false
  bitFixedUs := 502
  bitZeroUs := 400
  bitOneUs := 1244
  hasStop := true
  stopMarkUs := 502
  msbFirst := true
  addrBits := 16
  nbitsMin := 48
  nbitsMax := 48

/-- The column "value here" of rule R6, for either backend; PRESUMED where that table says so (assumption 13). -/
def specConfig (b : Backend) : Config where
  backend := b
  tolPercent := 25
  idleUs := 10000
  capCapacity := 256
  seqCapacity := 256
  nslot := 8
  ndec := 8
  baseClockHz := 80000000
  clockDivider := 10
  itemTickMax := 32767
  dutyReset := 50
  nec := descNEC
  lg := descLG
  panasonic := descPanasonic

/-- DESIGN CHOICE, unsafe (assumption 1): rule R6 gives `BACKEND` no default; `State.reset` launches with the peripheral
backend. No statement but one about `State.reset` itself rests on it. -/
def launchBackend : Backend := .peripheral

/-- The configuration `State.reset` launches with. -/
def launchConfig : Config := specConfig launchBackend

end Sys2Proof.Machine
end

