-- ==== Sys2Proof/Machine/State.lean ====
section
/-! DEFINITION. The state of the block (rules R20 to R46), its reset value (rule R55), and the reasons a step can stop. -/

namespace Sys2Proof.Machine

/-- A PulseSequence value (rule R23). DESIGN CHOICE, safe (assumption 16): the type admits ill-formed values. -/
structure PulseSeq where
  /-- carrier frequency in hertz; 0 means unmodulated -/
  carrier : BitVec 32
  /-- signed microseconds in time order: positive a mark, negative a space -/
  durations : List Duration
  repeatCount : BitVec 16
  repeatGap : BitVec 32
  deriving DecidableEq, Repr

/-- A switch-adapter slot (rule R24). -/
structure Slot where
  seq : PulseSeq
  name : BitVec 16
  deriving DecidableEq, Repr

/-- A peripheral item (rule R93). -/
structure Item where
  level : Level
  ticks : Nat
  deriving DecidableEq, Repr

/-- A span of the output history: it lasts `len × 10 / per10us` microseconds (rules R36, R94). -/
structure Span where
  level : Level
  len : Nat
  per10us : Nat
  deriving DecidableEq, Repr

/-- `RX_STATE` (rule R41). -/
inductive RxState where
  | idle
  | capturing
  | done
  deriving DecidableEq, Repr

/-- A decoder entry (rule R45). -/
structure DecEntry where
  vendor : Vendor
  nbits : BitVec 16
  mode : DecMode
  expAddress : BitVec 32
  expData : BitVec 32
  deriving DecidableEq, Repr

/-- The outcome of one decoder (rules R46, R96). DESIGN CHOICE, safe (assumption 14): decoded fields are exact. -/
inductive DecOutcome where
  | matched
  | noMatch
  | decoded (vendor : Vendor) (address data : Nat) (nbits : BitVec 16)
  | raw (durations : List (BitVec 32))
  deriving DecidableEq, Repr

/-- A dispatch record (rules R46, R96). -/
structure DispatchRec where
  gen : BitVec 32
  outcomes : List DecOutcome
  deriving DecidableEq, Repr

/-- A result value on the result port (rules R21, R103, R105): the four commands that return one. -/
inductive CmdResult where
  /-- `LEN`: `total_length`, 64-bit -/
  | total (us : BitVec 64)
  /-- `SW.CREATE`: handle, 16-bit -/
  | handle (h : BitVec 16)
  /-- `RX.REG`: decoder index, 16-bit -/
  | index (j : BitVec 16)
  /-- `RX.DISPATCH`: 1 if a capture was dispatched, else 0 -/
  | dispatched (yes : Bool)
  deriving DecidableEq, Repr

/-- The state of the block, exactly rule R20's list under the spec's names, with the boundary of rule R21 beside it: `cfg`
(the model's arguments, rule R6), `stream` (the command port) and `result` (the result port). -/
structure State where
  /-- The parameters of rule R6 and the table `ROM`, constant: no step writes this field (assumption 2). -/
  cfg : Config
  /-- The command port: the words of the command-word stream still to come, host commands and event records in the order the
  steps occur (rules R21, R100, R108; assumption 3). -/
  stream : List Word
  /-- `SEQ` (rule R22) -/
  seq : PulseSeq
  /-- `SLOT[0 .. NSLOT_USED−1]`; `NSLOT_USED` is its length (rule R24); DESIGN CHOICE, safe, as for `CAP_BUF` and `DEC`
  (assumption 9) -/
  slots : List Slot
  /-- `STATUS` (rule R25) -/
  status : BitVec 8
  /-- The result port's value, absent when the last command returned none (rules R21, R105); DESIGN CHOICE (assumption 8) -/
  result : Option CmdResult
  /-- `TX_PIN` (rule R27) -/
  txPin : BitVec 16
  /-- `CARRIER_DUTY` (rule R27) -/
  carrierDuty : BitVec 8
  /-- `TX_READY` (rule R27) -/
  txReady : Bool
  /-- `CUR_CARRIER`; `none` is `NONE` (rule R28) -/
  curCarrier : Option (BitVec 32)
  /-- `RECONF_COUNT` (rule R28) -/
  reconfCount : BitVec 32
  /-- `ON_US` (rule R28) -/
  onUs : BitVec 32
  /-- `OFF_US` (rule R28) -/
  offUs : BitVec 32
  /-- `CLOCK_DIVIDER` (rule R29) -/
  clockDivider : BitVec 8
  /-- `TICKS_PER_10US` (rule R29) -/
  ticksPer10us : BitVec 32
  /-- `CHANNEL` (rule R29) -/
  channel : BitVec 8
  /-- `ITEMQ` (rule R29) -/
  itemq : List Item
  /-- `TX_POS` (rule R26); DESIGN CHOICE, safe (assumption 22): no width -/
  txPos : Nat
  /-- `TX_BUSY` (rule R29) -/
  txBusy : Bool
  /-- `ENG_ACTIVE` (rule R30) -/
  engActive : Bool
  /-- `ENG_SEQ` (rule R30) -/
  engSeq : PulseSeq
  /-- `ENG_REP` (rule R30) -/
  engRep : BitVec 16
  /-- `IRQ_EN` (rule R35) -/
  irqEn : Bool
  /-- `TX_OUT` (rule R36) -/
  txOut : Level
  /-- `TX_TRACE`, oldest first (rule R36) -/
  txTrace : List Span
  /-- `RX_PIN` (rule R44) -/
  rxPin : BitVec 16
  /-- `RX_READY` (rule R44) -/
  rxReady : Bool
  /-- `RX_STATE` (rule R41) -/
  rxState : RxState
  /-- `CAP_BUF[0 .. CAP_LEN−1]`; `CAP_LEN` is its length (rule R40) -/
  capBuf : List (BitVec 32)
  /-- `LAST_EDGE` (rule R42) -/
  lastEdge : BitVec 32
  /-- `GEN` (rule R43) -/
  gen : BitVec 32
  /-- `DEC[0 .. NDEC_USED−1]`; `NDEC_USED` is its length (rule R45) -/
  dec : List DecEntry
  /-- `RX_LOG`, oldest first (rule R46) -/
  rxLog : List DispatchRec
  deriving DecidableEq, Repr

/-- What stops the machine with a fault. -/
inductive Fault where
  /-- Raised by `EV.PLAY` when `TX_POS` points at no entry of `ITEMQ` while `TX_BUSY = 1`: an index rule R63 says is never
  generated (DESIGN CHOICE, assumption 15). No state that meets `Inv` raises it. Safe: the machine stops. -/
  | itemIndexOutOfRange
  deriving DecidableEq, Repr

/-- Why a step has no meaning: the stream does not describe an execution of the block (rules R107, R108, R270; U2). All are
safe: the machine stops. -/
inductive Refusal where
  /-- An instruction the model gives no meaning. -/
  | notModelled (mnemonic : String)
  /-- Raised by the step when no word is left in the stream: the block executes nothing of its own accord (rule R292). -/
  | streamEnded
  /-- Raised by the step when the stream ends inside a command's operand words (rule R107). -/
  | streamTruncated
  /-- Raised by every host command while `ENG_ACTIVE = 1`: the host is blocked inside a send (rules R270, R271). -/
  | hostBlocked
  /-- Raised by `EV.PLAY` while `TX_BUSY = 0` (rules R108, R170). -/
  | playNotEnabled
  /-- Raised by `EV.RESUME` unless `ENG_ACTIVE = 1` and `TX_BUSY = 0` (rules R108, R172). -/
  | resumeNotEnabled
  /-- Raised by `EV.EDGE` unless `RX_READY = 1` and `IRQ_EN = 1` (rules R108, R203). -/
  | edgeNotEnabled
  /-- Raised by `EV.IDLE` unless `RX_READY = 1`, `IRQ_EN = 1`, `RX_STATE = CAPTURING` and the gap exceeds `IDLE_US` (rules
  R108, R208). -/
  | idleNotEnabled
  deriving DecidableEq, Repr

/-- What a step answers. -/
abbrev Answer := Host.Outcome State Fault Refusal

/-- The PulseSequence with no entry, carrier 0, played once: `SEQ` after reset (rule R55). -/
def PulseSeq.empty : PulseSeq := { carrier := 0, durations := [], repeatCount := 1, repeatGap := 0 }

/-- The state right after reset under a configuration (rules R55, R290, R291). DESIGN CHOICE, unsafe (assumption 5): the spec
gives `LAST_EDGE` and `ENG_SEQ` no reset value and no rule reads them before writing them; the model names 0 and the empty
sequence. -/
def State.resetWith (c : Config) : State where
  cfg := c
  stream := []
  seq := PulseSeq.empty
  slots := []
  status := 0
  result := none
  txPin := 0
  carrierDuty := c.dutyReset
  txReady := false
  curCarrier := none
  reconfCount := 0
  onUs := 0
  offUs := 0
  clockDivider := c.clockDivider
  ticksPer10us := 0
  channel := 0
  itemq := []
  txPos := 0
  txBusy := false
  engActive := false
  engSeq := PulseSeq.empty
  engRep := 0
  irqEn := true
  txOut := false
  txTrace := []
  rxPin := 0
  rxReady := false
  rxState := .idle
  capBuf := []
  lastEdge := 0
  gen := 0
  dec := []
  rxLog := []

/-- The machine right after reset: power-on with the parameters of rule R6 (rule R290). -/
def State.reset : State := State.resetWith launchConfig

end Sys2Proof.Machine
end

