-- ==== Sys2Proof/Machine/Flags.lean ====
section
/-! DEFINITION. The status codes and the one-bit conditions the rules test or set. -/

namespace Sys2Proof.Machine

/-- The synchronous errors (rule R260). -/
inductive Err where
  | invalidArgument
  | peripheralBusy
  | notSetup
  deriving DecidableEq, Repr

/-- `STATUS` of a command that completes (rules R25, R260). -/
def statusOk : BitVec 8 := 0

/-- The code of an error in `STATUS` (rules R25, R260). -/
def Err.code : Err → BitVec 8
  | .invalidArgument => 1
  | .peripheralBusy => 2
  | .notSetup => 3

/-- `NSLOT_USED` (rule R24). -/
def State.nslotUsed (s : State) : Nat := s.slots.length

/-- `CAP_LEN` (rule R40). -/
def State.capLen (s : State) : Nat := s.capBuf.length

/-- `NDEC_USED` (rule R45). -/
def State.ndecUsed (s : State) : Nat := s.dec.length

/-- `HOST` may step: the host is not held inside a send (rules R270, R271). -/
def State.hostFree (s : State) : Bool := !s.engActive

/-- `PLAYER` may step (rules R170, R270). -/
def State.playEnabled (s : State) : Bool := s.txBusy

/-- `ENGINE` may step (rules R172, R270). -/
def State.resumeEnabled (s : State) : Bool := s.engActive && !s.txBusy

/-- `EDGE` may step (rules R203, R270, R272). -/
def State.edgeEnabled (s : State) : Bool := s.rxReady && s.irqEn

/-- The time since the last edge, mod 2^32 (rules R42, R206). -/
def State.gapAt (s : State) (t : Word) : BitVec 32 := t - s.lastEdge

/-- The gap at `t` exceeds the idle threshold: strictly greater (rule R206, decision D26). -/
def State.gapExceeds (s : State) (t : Word) : Bool := decide (s.cfg.idleUs < (s.gapAt t).toNat)

/-- `TIMER` may step at `t` (rules R208, R270). -/
def State.idleEnabled (s : State) (t : Word) : Bool :=
  s.rxReady && s.irqEn && decide (s.rxState = .capturing) && s.gapExceeds t

/-- No `PLAYER` or `ENGINE` step is enabled (rule R281). -/
def State.quiescent (s : State) : Bool := !s.txBusy && !s.engActive

/-- The carrier a send asks for is not the configured one; `NONE` differs from every frequency (rules R28, R158). -/
def State.carrierDiffers (s : State) (f : BitVec 32) : Bool := decide (s.curCarrier ≠ some f)

end Sys2Proof.Machine
end

