-- ==== Sys2Proof/Machine/Operands.lean ====
section
/-! DEFINITION. Operand forms: a signed duration entry, a vendor code, a bit count, an address and a data value against their
fields, a PulseSequence's well-formedness and length (rules R80, R86, R102, R104, R129, R135). -/

namespace Sys2Proof.Machine

/-- `mark(d)`, the entry `+d` (rules R9, R80). -/
def mark (d : Nat) : Duration := BitVec.ofNat 32 d

/-- `space(d)`, the entry `-d` (rules R9, R80). -/
def space (d : Nat) : Duration := BitVec.ofInt 32 (-(d : Int))

/-- The level an entry encodes: positive is active (rules R9, R80, R248). -/
def levelOf (e : Duration) : Level := decide (0 < e.toInt)

/-- `abs(e)`, the entry's duration in microseconds (rules R80, R248). -/
def usOf (e : Duration) : Nat := e.toInt.natAbs

/-- An entry that rule R80 makes legal: neither 0 nor −2^31. -/
def entryLegal (e : Duration) : Bool := decide (e ≠ 0) && decide (e ≠ 0x80000000#32)

/-- Neighbours have opposite signs and every entry is legal (rule R129). -/
def alternates : List Duration → Bool
  | [] => true
  | [e] => entryLegal e
  | e :: f :: rest => entryLegal e && (levelOf e != levelOf f) && alternates (f :: rest)

/-- `wf(d)` (rule R129). -/
def wfDurations (seqCapacity : Nat) (d : List Duration) : Bool := decide (d.length ≤ seqCapacity) && alternates d

/-- `base_length(s)` (rule R135). -/
def baseLength (q : PulseSeq) : Nat := (q.durations.map usOf).sum

/-- `total_length(s)` (rule R135). -/
def totalLength (q : PulseSeq) : Nat :=
  q.repeatCount.toNat * baseLength q + (q.repeatCount.toNat - 1) * q.repeatGap.toNat

/-- A 4-bit vendor code: 1, 2, 3 are defined, 0 and 4 to 15 reserved (rule R102). -/
def vendorOf (code : BitVec 4) : Option Vendor :=
  if code = 1#4 then some .nec
  else if code = 2#4 then some .lg
  else if code = 3#4 then some .panasonic
  else none

/-- A bit count inside the protocol's supported range (rules R31, R120). -/
def nbitsLegal (P : Descriptor) (nbits : Nat) : Bool := decide (P.nbitsMin ≤ nbits) && decide (nbits ≤ P.nbitsMax)

/-- The width of the data field of an `nbits`-bit frame word (rule R86). -/
def dataBits (P : Descriptor) (nbits : Nat) : Nat := nbits - P.addrBits

/-- The address fits its field (rules R86, R120). -/
def addressFits (P : Descriptor) (address : Nat) : Bool := decide (address < 2 ^ P.addrBits)

/-- The data fit their field (rules R86, R120). -/
def dataFits (P : Descriptor) (nbits data : Nat) : Bool := decide (data < 2 ^ dataBits P nbits)

/-- `word = address × 2^data_bits + data` (rule R86). -/
def frameWord (P : Descriptor) (nbits address data : Nat) : Nat := address * 2 ^ dataBits P nbits + data

/-- The address field of a frame word (rule R86). -/
def wordAddress (P : Descriptor) (nbits word : Nat) : Nat := word / 2 ^ dataBits P nbits

/-- The data field of a frame word (rule R86). -/
def wordData (P : Descriptor) (nbits word : Nat) : Nat := word % 2 ^ dataBits P nbits

end Sys2Proof.Machine
end

