-- ==== Sys2Proof/Machine/Ops.lean ====
section
/-! DEFINITION. The operations the meanings share: reading a buffer, raising an error, completing a command, blocking the host,
emitting spans, reconfiguring the carrier, submitting a pass, completing a capture. -/

namespace Sys2Proof.Machine

/-- `MemRead(SPACE, i, 1)`: whole entries only; an index past the end reads nothing (rules R10, R61, R63). -/
def memRead {α : Type} (buf : List α) (i : Nat) : Option α := buf[i]?

/-- `MemWrite(SPACE, len, 1, v)`: the appending write every buffer of rule R60 uses (rules R10, R252). -/
def memAppend {α : Type} (buf : List α) (v : α) : List α := buf ++ [v]

/-- Taking an exception, `raise E(info)` (rules R10, R262): the command ends, `STATUS` takes the error's code, no result value
is returned and no other state changes. Nothing is saved, no mode changes and control goes nowhere, so there is no return
operation beside it (rule R268). DESIGN CHOICE, safe (assumption 6): no `info` is kept. -/
def raise (e : Err) (s : State) : Answer := .next { s with status := e.code, result := none }

/-- `return OK(v)` (rules R10, R105, R260). -/
def State.finish (s : State) (v : Option CmdResult) : State := { s with status := statusOk, result := v }

/-- A command that completes. -/
def returnOk (v : Option CmdResult) (s : State) : Answer := .next (s.finish v)

/-- A `HOST` step: not enabled while the engine holds the host (rules R270, R271). -/
def hostStep (s : State) (effect : Answer) : Answer :=
  if s.hostFree then effect else .refused .hostBlocked

/-- A command word that is no instruction: a host command that raises `InvalidArgument` (rules R106, R107, R261 (l);
assumption 7). -/
def illegalCommand (s : State) : Answer := hostStep s (raise .invalidArgument s)

/-- The front of the command stream (rules R100, R107). -/
def fetch (s : State) : Decoded := decode s.stream

/-- The state in which a command runs: its words have left the stream. -/
def State.consume (s : State) (rest : List Word) : State := { s with stream := rest }

/-- `emit(level, len, per10us)` (rule R10). -/
def State.emit (s : State) (sp : Span) : State := { s with txTrace := memAppend s.txTrace sp, txOut := sp.level }

/-- Spans emitted in order. -/
def State.emitAll : State → List Span → State
  | s, [] => s
  | s, sp :: sps => (s.emit sp).emitAll sps

/-- A span timed by the processor, one unit a microsecond (rule R94). -/
def usSpan (level : Level) (us : Nat) : Span := { level := level, len := us, per10us := 10 }

/-- The gap between two passes: inactive, timed by the processor (rules R160, R162, R172). -/
def gapSpan (q : PulseSeq) : Span := usSpan false q.repeatGap.toNat

/-- The carrier period in microseconds, `1 / f` rounded to nearest and at least 1 (rule R159). -/
def carrierPeriod (f : Nat) : Nat := max 1 ((1000000 + f / 2) / f)

/-- The carrier on-time for a frequency and a duty percent; 0 for an unmodulated carrier (rule R159). -/
def carrierOn (f duty : Nat) : Nat := if f = 0 then 0 else carrierPeriod f * duty / 100

/-- The carrier off-time (rule R159). -/
def carrierOff (f duty : Nat) : Nat := if f = 0 then 0 else carrierPeriod f - carrierOn f duty

/-- `reconfigure(f)` (rule R159). -/
def State.reconfigure (s : State) (f : BitVec 32) : State :=
  { s with
    curCarrier := some f
    reconfCount := s.reconfCount + 1
    onUs := BitVec.ofNat 32 (carrierOn f.toNat s.carrierDuty.toNat)
    offUs := BitVec.ofNat 32 (carrierOff f.toNat s.carrierDuty.toNat) }

/-- Step 4 of `send`: reconfigure only on a change of carrier (rules R153, R158). -/
def State.reconfigureIfNeeded (s : State) (f : BitVec 32) : State :=
  if s.carrierDiffers f then s.reconfigure f else s

/-- The tick rate `TX.SETUP` computes from the register `CLOCK_DIVIDER` (rules R29, R152); with divider 0, no legal parameter, 0
(DESIGN CHOICE, safe, assumption 23). -/
def tickRate (s : State) : Nat := s.cfg.baseClockHz / (s.clockDivider.toNat * 100000)

/-- The loop of rule R166 for one entry; `fuel` bounds the number of full items. -/
def splitTicks (itemTickMax : Nat) (level : Level) : Nat → Nat → List Item
  | 0, ticks => if ticks > 0 then [{ level := level, ticks := ticks }] else []
  | fuel + 1, ticks =>
    if ticks > itemTickMax then
      { level := level, ticks := itemTickMax } :: splitTicks itemTickMax level fuel (ticks - itemTickMax)
    else if ticks > 0 then [{ level := level, ticks := ticks }] else []

/-- An entry's length in ticks (rule R166). -/
def ticksOf (rate : Nat) (e : Duration) : Nat := usOf e * rate / 10

/-- The items of one entry: a duration too long for one item takes several of one level; less than a tick takes none (rules
R93, R166). -/
def itemsOf (rate itemTickMax : Nat) (e : Duration) : List Item :=
  splitTicks itemTickMax (levelOf e) (ticksOf rate e / itemTickMax) (ticksOf rate e)

/-- `to_items(d)` (rule R166). -/
def toItems (rate itemTickMax : Nat) (d : List Duration) : List Item := d.flatMap (itemsOf rate itemTickMax)

/-- `submit(d)` (rule R165): the item list is built from the copy `d`. -/
def State.submit (s : State) (d : List Duration) : State :=
  let q := toItems s.ticksPer10us.toNat s.cfg.itemTickMax d
  { s with itemq := q, txPos := 0, txBusy := !q.isEmpty }

/-- The first step of a repeated peripheral send: the engine holds a copy (rule R167). -/
def State.startEngine (s : State) (q : PulseSeq) : State := { s with engSeq := q, engRep := 1, engActive := true }

/-- `peripheral_send(s)` (rule R167). -/
def State.peripheralSend (s : State) (q : PulseSeq) : State :=
  if q.repeatCount = 1#16 then s.submit q.durations else (s.submit q.durations).startEngine q

/-- One pass over a sequence, bit-banged: a span per entry (rule R162). -/
def passSpans (q : PulseSeq) : List Span := q.durations.map fun e => usSpan (levelOf e) (usOf e)

/-- The spans of a bit-bang send: for each repetition, the gap if it is not the first, then one pass (rules R160, R162). -/
def bitbangSpans (q : PulseSeq) : List Span :=
  (List.range q.repeatCount.toNat).flatMap fun r => (if r > 0 then [gapSpan q] else []) ++ passSpans q

/-- The global interrupt enable (rule R35). -/
def State.setIrq (s : State) (on : Bool) : State := { s with irqEn := on }

/-- The pin driven without a span: `write(level)` (rules R21, R152, R162, R170). -/
def State.drivePin (s : State) (level : Level) : State := { s with txOut := level }

/-- `bitbang_send(s)`, one atomic step: interrupts off, every span, the pin inactive, interrupts on (rule R162). DEDUCED,
unsafe for a capture that overlaps it (assumption 11). -/
def State.bitbangSend (s : State) (q : PulseSeq) : State :=
  (((s.setIrq false).emitAll (bitbangSpans q)).drivePin false).setIrq true

/-- Step 5 of `send`, by backend (rules R150, R153). -/
def State.play (s : State) (q : PulseSeq) : State :=
  match s.cfg.backend with
  | .bitbang => s.bitbangSend q
  | .peripheral => s.peripheralSend q

/-- `send(s)`, shared by `TX.SEND` and `SW.ON`, its checks in order (rule R153). -/
def send (q : PulseSeq) (s : State) : Answer :=
  if !s.txReady then raise .notSetup s
  else if q.durations.isEmpty then returnOk none s
  else if decide (s.cfg.backend = .peripheral) && s.txBusy then raise .peripheralBusy s
  else returnOk none ((s.reconfigureIfNeeded q.carrier).play q)

/-- A capture is complete: the hand-over of rules R67 and R68 (rules R206, R208). -/
def State.completeCapture (s : State) : State := { s with rxState := .done, gen := s.gen + 1 }

end Sys2Proof.Machine
end

