-- ==== Sys2Proof/Machine/Codec.lean ====
section
/-! DEFINITION. The generic codec over a protocol descriptor: `encode` (rules R85 to R87, R120), `within`, `classify`, `decode`,
`matches` and `run` (rules R211, R230 to R241). -/

namespace Sys2Proof.Machine

/-- `b_k`, the `k`-th bit sent of an `nbits`-bit frame word (rule R87). -/
def sentBit (P : Descriptor) (word nbits k : Nat) : Bool :=
  if P.msbFirst then word.testBit (nbits - 1 - k) else word.testBit k

/-- The length of the discriminating element for a bit value (rule R31). -/
def bitUs (P : Descriptor) (b : Bool) : Nat := if b then P.bitOneUs else P.bitZeroUs

/-- The two entries of one bit, in both variants (rules R85, R120, R126; DESIGN CHOICE, safe, assumption 17). -/
def bitPair (P : Descriptor) (b : Bool) : List Duration :=
  if P.bitInMark then [mark (bitUs P b), space P.bitFixedUs] else [mark P.bitFixedUs, space (bitUs P b)]

/-- The stop mark, where the protocol has one (rules R85, R120). -/
def stopEntries (P : Descriptor) : List Duration := if P.hasStop then [mark P.stopMarkUs] else []

/-- The frame of a frame word (rules R85, R120). -/
def frameOf (P : Descriptor) (word nbits : Nat) : List Duration :=
  [mark P.hdrMarkUs, space P.hdrSpaceUs] ++ (List.range nbits).flatMap (fun k => bitPair P (sentBit P word nbits k)) ++
    stopEntries P

/-- `encode(P, address, data, nbits)`; none is `InvalidArgument` (rules R120, R124). -/
def encodeFrame (P : Descriptor) (address data nbits : Nat) : Option (List Duration) :=
  if !nbitsLegal P nbits then none
  else if !addressFits P address then none
  else if !dataFits P nbits data then none
  else some (frameOf P (frameWord P nbits address data) nbits)

/-- `within(d, ref)`, exact in integers, both edges inside (rules R231, R232, R245). -/
def within (tolPercent d ref : Nat) : Bool :=
  decide ((100 - tolPercent) * ref ≤ 100 * d) && decide (100 * d ≤ (100 + tolPercent) * ref)

/-- `abs(a − b)`. -/
def distance (a b : Nat) : Nat := ((a : Int) - (b : Int)).natAbs

/-- `classify(v, P)` (rule R233). -/
def classify (tolPercent v : Nat) (P : Descriptor) : Option Bool :=
  let z := within tolPercent v P.bitZeroUs
  let o := within tolPercent v P.bitOneUs
  if !z && !o then none
  else if z && !o then some false
  else if o && !z then some true
  else if distance v P.bitOneUs ≤ distance v P.bitZeroUs then some true
  else some false

/-- `need(P, nbits)`, the least length of a capture that can hold the frame (rules R91, R234). -/
def need (P : Descriptor) (nbits : Nat) : Nat := 2 + 2 * nbits + P.hasStop.toNat

/-- Where bit `k`'s discriminating duration stands in a capture (rules R85, R236). -/
def bitIndex (P : Descriptor) (k : Nat) : Nat := if P.bitInMark then 2 + 2 * k else 3 + 2 * k

/-- The weight of the `k`-th bit received (rules R87, R236). -/
def bitWeight (P : Descriptor) (nbits k : Nat) : Nat := if P.msbFirst then 2 ^ (nbits - 1 - k) else 2 ^ k

/-- Step 3 of `decode`: the first `m` bits, none at the first duration that is no bit (rule R236). -/
def readBits (tolPercent : Nat) (P : Descriptor) (nbits : Nat) (c : List (BitVec 32)) : Nat → Option Nat
  | 0 => some 0
  | m + 1 =>
    match readBits tolPercent P nbits c m with
    | none => none
    | some w =>
      match memRead c (bitIndex P m) with
      | none => none
      | some v =>
        match classify tolPercent v.toNat P with
        | none => none
        | some b => some (w + b.toNat * bitWeight P nbits m)

/-- An entry of a capture is inside a reference's window; an absent entry is not (rule R235). -/
def entryWithin (tolPercent : Nat) (c : List (BitVec 32)) (i ref : Nat) : Bool :=
  match memRead c i with
  | none => false
  | some d => within tolPercent d.toNat ref

/-- `decode(P, nbits, c)` (rules R234 to R238). -/
def decodeFrame (tolPercent : Nat) (P : Descriptor) (nbits : Nat) (c : List (BitVec 32)) : Option (Nat × Nat) :=
  if c.length < need P nbits then none
  else if !entryWithin tolPercent c 0 P.hdrMarkUs then none
  else if !entryWithin tolPercent c 1 P.hdrSpaceUs then none
  else
    match readBits tolPercent P nbits c nbits with
    | none => none
    | some word => some (wordAddress P nbits word, wordData P nbits word)

/-- The capture a receiver takes of a sequence that begins with a mark: the magnitudes (rules R81, R215). -/
def captureOf (d : List Duration) : List (BitVec 32) := d.map fun e => BitVec.ofNat 32 (usOf e)

/-- `decode` with the parameters of a decoder entry. -/
def decodeWith (cfg : Config) (e : DecEntry) (c : List (BitVec 32)) : Option (Nat × Nat) :=
  decodeFrame cfg.tolPercent (cfg.desc e.vendor) e.nbits.toNat c

/-- `matches(dec, c)` (rule R239). -/
def matchesEntry (cfg : Config) (e : DecEntry) (c : List (BitVec 32)) : Bool :=
  decide (decodeWith cfg e c = some (e.expAddress.toNat, e.expData.toNat))

/-- `run(dec, c)` (rule R211). -/
def runDecoder (cfg : Config) (e : DecEntry) (c : List (BitVec 32)) : DecOutcome :=
  match e.mode with
  | .exact => if matchesEntry cfg e c then .matched else .noMatch
  | .dump =>
    match decodeWith cfg e c with
    | some (address, data) => .decoded e.vendor address data e.nbits
    | none => .raw c

end Sys2Proof.Machine
end

