-- ==== Sys2Proof/Machine/Encoder.lean ====
section
/-! DEFINITION. The encoder family: `ENC.NEC`, `ENC.LG`, `ENC.PANASONIC`, `RAW`, `REPEAT`, `LEN` (rules R120 to R137). -/

namespace Sys2Proof.Machine

/-- What every successful `ENC.*` writes: `SEQ` whole, its repeat fields 1 and 0 (rule R125). -/
def State.buildSeq (s : State) (carrier : BitVec 32) (d : List Duration) : State :=
  { s with seq := { carrier := carrier, durations := d, repeatCount := 1, repeatGap := 0 } }

/-- An `ENC.*` command for one vendor (rules R120, R124, R125). -/
def encodeCommand (v : Vendor) (nbits : BitVec 16) (address data : Word) (s : State) : Answer :=
  hostStep s
    (match encodeFrame (s.cfg.desc v) address.toNat data.toNat nbits.toNat with
    | none => raise .invalidArgument s
    | some d => returnOk none (s.buildSeq (s.cfg.desc v).carrierHz d))

/-- `ENC.NEC` (rule R121). -/
def execEncNec (nbits : BitVec 16) (address command : Word) (s : State) : Answer :=
  encodeCommand .nec nbits address command s

/-- `ENC.LG` (rule R122). -/
def execEncLg (nbits : BitVec 16) (address data : Word) (s : State) : Answer :=
  encodeCommand .lg nbits address data s

/-- `ENC.PANASONIC` (rule R123). -/
def execEncPanasonic (nbits : BitVec 16) (address data : Word) (s : State) : Answer :=
  encodeCommand .panasonic nbits address data s

/-- `RAW` (rules R128, R129). -/
def execRaw (carrier : Word) (entries : List Duration) (s : State) : Answer :=
  hostStep s
    (if wfDurations s.cfg.seqCapacity entries then returnOk none (s.buildSeq carrier entries)
    else raise .invalidArgument s)

/-- `REPEAT` (rule R132): the carrier and the durations are kept. -/
def execRepeatSeq (n : BitVec 16) (gap : Word) (s : State) : Answer :=
  hostStep s
    (if n = 0#16 then raise .invalidArgument s
    else returnOk none { s with seq := { s.seq with repeatCount := n, repeatGap := gap } })

/-- `LEN` (rule R136). -/
def execLen (s : State) : Answer :=
  hostStep s (returnOk (some (.total (BitVec.ofNat 64 (totalLength s.seq)))) s)

end Sys2Proof.Machine
end

