-- ==== Sys2Proof/Machine/Receive.lean ====
section
/-! DEFINITION. The receiver family: `RX.SETUP`, `RX.REG`, `EV.EDGE`, `EV.IDLE`, `RX.DISPATCH` (rules R200 to R216). -/

namespace Sys2Proof.Machine

/-- `RX.SETUP` (rule R201). -/
def execRxSetup (pin : BitVec 16) (s : State) : Answer :=
  hostStep s
    (if s.rxReady then raise .invalidArgument s
    else returnOk none { s with rxPin := pin, rxState := .idle, capBuf := [], rxReady := true })

/-- The expected fields an `EXACT` decoder may hold: what the encoder would accept (rule R202, decision D29). -/
def expectedFits (P : Descriptor) (mode : DecMode) (nbits : Nat) (expAddress expData : Word) : Bool :=
  match mode with
  | .exact => addressFits P expAddress.toNat && dataFits P nbits expData.toNat
  | .dump => true

/-- The checks of `RX.REG` past the vendor code, then the append (rule R202). -/
def registerDecoder (e : DecEntry) (s : State) : Answer :=
  if !nbitsLegal (s.cfg.desc e.vendor) e.nbits.toNat then raise .invalidArgument s
  else if !expectedFits (s.cfg.desc e.vendor) e.mode e.nbits.toNat e.expAddress e.expData then raise .invalidArgument s
  else if s.cfg.ndec ≤ s.ndecUsed then raise .invalidArgument s
  else returnOk (some (.index (BitVec.ofNat 16 s.ndecUsed))) { s with dec := memAppend s.dec e }

/-- `RX.REG` (rule R202). -/
def execRxReg (mode : DecMode) (vendor : BitVec 4) (nbits : BitVec 16) (expAddress expData : Word) (s : State) : Answer :=
  hostStep s
    (match vendorOf vendor with
    | none => raise .invalidArgument s
    | some v =>
      registerDecoder { vendor := v, nbits := nbits, mode := mode, expAddress := expAddress, expData := expData } s)

/-- `EV.EDGE` in `IDLE`: an edge to active starts a capture, an edge to inactive is ignored (rule R205). -/
def State.edgeIdle (s : State) (level : Level) (t : Word) : State :=
  if level then { s with lastEdge := t, rxState := .capturing } else s

/-- The entry appended if the buffer has room, else dropped without a trace (rules R206, R209). -/
def State.capture (s : State) (gap : BitVec 32) : State :=
  if s.capLen < s.cfg.capCapacity then { s with capBuf := memAppend s.capBuf gap } else s

/-- `EV.EDGE` in `CAPTURING`: a gap above the threshold ends the capture and drops the edge (rule R206). -/
def State.edgeCapturing (s : State) (t : Word) : State :=
  if s.gapExceeds t then s.completeCapture else { (s.capture (s.gapAt t)) with lastEdge := t }

/-- `EV.EDGE` (rules R203 to R207). -/
def execEvEdge (level : Level) (t : Word) (s : State) : Answer :=
  if s.edgeEnabled then
    match s.rxState with
    | .idle => .next (s.edgeIdle level t)
    | .capturing => .next (s.edgeCapturing t)
    | .done => .next s
  else .refused .edgeNotEnabled

/-- `EV.IDLE` (rule R208). -/
def execEvIdle (t : Word) (s : State) : Answer :=
  if s.idleEnabled t then .next s.completeCapture else .refused .idleNotEnabled

/-- The record of a dispatch: every registered decoder, in registration order (rules R210, R212). -/
def dispatchRec (s : State) : DispatchRec :=
  { gen := s.gen, outcomes := s.dec.map fun e => runDecoder s.cfg e s.capBuf }

/-- `RX.DISPATCH` (rules R210, R212). -/
def execRxDispatch (s : State) : Answer :=
  hostStep s
    (match s.rxState with
    | .idle => returnOk (some (.dispatched false)) s
    | .capturing => returnOk (some (.dispatched false)) s
    | .done =>
      returnOk (some (.dispatched true))
        { s with rxLog := memAppend s.rxLog (dispatchRec s), capBuf := [], rxState := .idle })

end Sys2Proof.Machine
end

