-- ==== Sys2Proof/Machine/Transmit.lean ====
section
/-! DEFINITION. The transmitter family and the switch adapter: `TX.CONFIG`, `TX.SETUP`, `TX.SEND`, `EV.PLAY`, `EV.RESUME`,
`SW.CREATE`, `SW.ON`, `SW.OFF` (rules R150 to R183). -/

namespace Sys2Proof.Machine

/-- `TX.CONFIG` (rule R151). -/
def execTxConfig (duty : BitVec 8) (pin : BitVec 16) (s : State) : Answer :=
  hostStep s
    (if duty.toNat < 1 ∨ duty.toNat > 100 then raise .invalidArgument s
    else if s.txBusy then raise .peripheralBusy s
    else returnOk none { s with txPin := pin, carrierDuty := duty, curCarrier := none })

/-- Acquiring the pin: inactive, no carrier configured (rule R152). -/
def State.acquireTx (s : State) : State := { (s.drivePin false) with curCarrier := none, txReady := true }

/-- `TX.SETUP` (rule R152). -/
def execTxSetup (s : State) : Answer :=
  hostStep s
    (if s.txReady then raise .invalidArgument s
    else
      match s.cfg.backend with
      | .bitbang => returnOk none s.acquireTx
      | .peripheral =>
        if tickRate s = 0 then raise .invalidArgument s
        else returnOk none { s.acquireTx with ticksPer10us := BitVec.ofNat 32 (tickRate s), channel := 0 })

/-- `TX.SEND`: a copy of `SEQ` (rules R70, R155). -/
def execTxSend (s : State) : Answer := hostStep s (send s.seq s)

/-- The cursor after an item: on to the next, or the end of playback (rule R170). -/
def State.advance (s : State) : State :=
  if s.txPos + 1 < s.itemq.length then { s with txPos := s.txPos + 1 }
  else { s with txBusy := false, itemq := [], txPos := 0, txOut := false }

/-- `EV.PLAY`: the peripheral plays one item (rule R170). -/
def execEvPlay (s : State) : Answer :=
  if s.playEnabled then
    match memRead s.itemq s.txPos with
    | none => .fault .itemIndexOutOfRange
    | some item => .next (s.emit { level := item.level, len := item.ticks, per10us := s.ticksPer10us.toNat }).advance
  else .refused .playNotEnabled

/-- The repeat loop counts the pass it submits and ends with the last one (rule R172). -/
def State.countPass (s : State) : State :=
  { s with
    engRep := s.engRep + 1
    engActive := if s.engRep.toNat + 1 = s.engSeq.repeatCount.toNat then false else s.engActive }

/-- `EV.RESUME`: the gap, then the next pass (rule R172). -/
def execEvResume (s : State) : Answer :=
  if s.resumeEnabled then .next ((s.emit (gapSpan s.engSeq)).submit s.engSeq.durations).countPass
  else .refused .resumeNotEnabled

/-- `SW.CREATE`: the next slot takes a copy of `SEQ` (rule R181). -/
def execSwCreate (name : BitVec 16) (s : State) : Answer :=
  hostStep s
    (if s.cfg.nslot ≤ s.nslotUsed then raise .invalidArgument s
    else
      returnOk (some (.handle (BitVec.ofNat 16 s.nslotUsed)))
        { s with slots := memAppend s.slots { seq := s.seq, name := name } })

/-- `SW.ON`: one send of the stored copy (rule R182). -/
def execSwOn (handle : BitVec 16) (s : State) : Answer :=
  hostStep s
    (match memRead s.slots handle.toNat with
    | none => raise .invalidArgument s
    | some slot => send slot.seq s)

/-- `SW.OFF`: a no-op on a valid handle (rule R183). -/
def execSwOff (handle : BitVec 16) (s : State) : Answer :=
  hostStep s (if s.nslotUsed ≤ handle.toNat then raise .invalidArgument s else returnOk none s)

end Sys2Proof.Machine
end

