-- ==== Sys2Proof/Machine/Dispatch.lean ====
section
/-! DEFINITION. One arm per instruction. -/

namespace Sys2Proof.Machine

def exec (i : Instr) (s : State) : Host.Outcome State Fault Refusal :=
  match i with
  | .encNec nbits address command => Sys2Proof.Machine.execEncNec nbits address command s
  | .encLg nbits address data => Sys2Proof.Machine.execEncLg nbits address data s
  | .encPanasonic nbits address data => Sys2Proof.Machine.execEncPanasonic nbits address data s
  | .raw carrier entries => Sys2Proof.Machine.execRaw carrier entries s
  | .repeatSeq n gap => Sys2Proof.Machine.execRepeatSeq n gap s
  | .len => Sys2Proof.Machine.execLen s
  | .txConfig duty pin => Sys2Proof.Machine.execTxConfig duty pin s
  | .txSetup => Sys2Proof.Machine.execTxSetup s
  | .txSend => Sys2Proof.Machine.execTxSend s
  | .swCreate name => Sys2Proof.Machine.execSwCreate name s
  | .swOn handle => Sys2Proof.Machine.execSwOn handle s
  | .swOff handle => Sys2Proof.Machine.execSwOff handle s
  | .rxSetup pin => Sys2Proof.Machine.execRxSetup pin s
  | .rxReg mode vendor nbits expAddress expData => Sys2Proof.Machine.execRxReg mode vendor nbits expAddress expData s
  | .rxDispatch => Sys2Proof.Machine.execRxDispatch s
  | .evEdge level t => Sys2Proof.Machine.execEvEdge level t s
  | .evIdle t => Sys2Proof.Machine.execEvIdle t s
  | .evPlay => Sys2Proof.Machine.execEvPlay s
  | .evResume => Sys2Proof.Machine.execEvResume s

end Sys2Proof.Machine
end

