-- ==== Sys2Proof/Machine/Step.lean ====
section
/-! DEFINITION. One step: the next command or event record of the stream (rules R11, R100, R108, R250). -/

namespace Sys2Proof.Machine

/-- The step of the agent whose command or record stands at the front of the stream. The order of the stream is the schedule:
the block fixes none (rule R270). -/
def step (s : State) : Host.Outcome State Fault Refusal :=
  match fetch s with
  | .instr i rest => exec i (s.consume rest)
  | .illegal _ rest => illegalCommand (s.consume rest)
  | .truncated => .refused .streamTruncated
  | .ended => .refused .streamEnded

/-- `s` with the instruction's words put at the front of the stream, so that the next step runs it. -/
def State.withFetchWord (s : State) (nbits w : Nat) : State := { s with stream := tableWords nbits w ++ s.stream }

/-- A list of instructions run in order, stopping at the first that has no next state (rules R250, R267). -/
def execAll : List Instr → State → Answer
  | [], s => .next s
  | i :: is, s =>
    match exec i s with
    | .next t => execAll is t
    | .fault f => .fault f
    | .refused r => .refused r

end Sys2Proof.Machine
end

