-- ==== Sys2Proof/Machine/Assembler.lean ====
section
/-! DEFINITION. The assembler's lines and pseudo-instructions (rules R109, R110), over instructions. -/

namespace Sys2Proof.Machine

/-- A line of assembler, parsed: a mnemonic with its operands; `nbits` may be left out of two of them (rule R109; DESIGN CHOICE,
safe, assumption 19). -/
inductive AsmLine where
  | encNec (address command : Word) (nbits : Option (BitVec 16))
  | encLg (data : Word) (nbits : BitVec 16)
  | encPanasonic (address data : Word) (nbits : Option (BitVec 16))
  | raw (carrierHz : Word) (entries : List Int)
  | repeatSeq (n : BitVec 16) (gapUs : Word)
  | len
  | txConfig (pin : BitVec 16) (dutyPercent : BitVec 8)
  | txSetup
  | txSend
  | swCreate (name : BitVec 16)
  | swOn (handle : BitVec 16)
  | swOff (handle : BitVec 16)
  | rxSetup (pin : BitVec 16)
  | rxReg (mode : DecMode) (vendor : Vendor) (nbits : BitVec 16) (expAddress expData : Word)
  | rxDispatch
  | evEdge (level : Level) (t : Word)
  | evIdle (t : Word)
  | evPlay
  | evResume
  deriving DecidableEq, Repr

/-- A vendor's 4-bit code (rule R102). -/
def vendorCode : Vendor → BitVec 4
  | .nec => 1
  | .lg => 2
  | .panasonic => 3

/-- The instruction a line assembles to, its operands in header order and its defaults filled in (rule R109). DESIGN CHOICE,
unsafe (assumption 26): a `RAW` entry outside the signed 32-bit range, on which the spec is silent, is reduced mod 2^32. -/
def AsmLine.instr : AsmLine → Instr
  | .encNec address command nbits => .encNec (nbits.getD 32) address command
  | .encLg data nbits => .encLg nbits 0 data
  | .encPanasonic address data nbits => .encPanasonic (nbits.getD 48) address data
  | .raw carrierHz entries => .raw carrierHz (entries.map (BitVec.ofInt 32))
  | .repeatSeq n gapUs => .repeatSeq n gapUs
  | .len => .len
  | .txConfig pin dutyPercent => .txConfig dutyPercent pin
  | .txSetup => .txSetup
  | .txSend => .txSend
  | .swCreate name => .swCreate name
  | .swOn handle => .swOn handle
  | .swOff handle => .swOff handle
  | .rxSetup pin => .rxSetup pin
  | .rxReg mode vendor nbits expAddress expData => .rxReg mode (vendorCode vendor) nbits expAddress expData
  | .rxDispatch => .rxDispatch
  | .evEdge level t => .evEdge level t
  | .evIdle t => .evIdle t
  | .evPlay => .evPlay
  | .evResume => .evResume

/-- `ENC.<vendor>` (rules R103, R110). DESIGN CHOICE, unsafe (assumption 25): rule R110 does not say what becomes of the address of
an LG pseudo-instruction; it is put into the address word, so one that is not 0 makes `ENC.LG` raise `InvalidArgument`. -/
def encInstr (v : Vendor) (address data : Word) (nbits : BitVec 16) : Instr :=
  match v with
  | .nec => .encNec nbits address data
  | .lg => .encLg nbits address data
  | .panasonic => .encPanasonic nbits address data

/-- The pseudo-instructions (rule R110). -/
inductive Pseudo where
  | sendCmd (vendor : Vendor) (address data : Word) (nbits : BitVec 16)
  | sendRaw (carrierHz : Word) (entries : List Int)
  | sendRep (n : BitVec 16) (gapUs : Word)
  | mkSwitch (name : BitVec 16) (vendor : Vendor) (address data : Word) (nbits : BitVec 16)
  | poll
  deriving DecidableEq, Repr

/-- Their expansions (rule R110). -/
def Pseudo.expand : Pseudo → List Instr
  | .sendCmd v address data nbits => [encInstr v address data nbits, .txSend]
  | .sendRaw carrierHz entries => [(AsmLine.raw carrierHz entries).instr, .txSend]
  | .sendRep n gapUs => [.repeatSeq n gapUs, .txSend]
  | .mkSwitch name v address data nbits => [encInstr v address data nbits, .swCreate name]
  | .poll => [.rxDispatch]

end Sys2Proof.Machine
end

