-- ==== Sys2Proof/Machine/Waveform.lean ====
section
/-! DEFINITION. What an observer reads off the output history: the carrier inside a mark (rule R164), merging spans and dropping
empty ones (rule R36), durations (rule R94). No step reads any of it. -/

namespace Sys2Proof.Machine

/-- The loop of rule R164 with `left = D − t`; `fuel` bounds the number of cycles. -/
def waveLoop (on off : Nat) : Nat → Nat → List Span
  | 0, _ => []
  | fuel + 1, left =>
    if left = 0 then []
    else
      let a := min on left
      let afterOn := left - a
      if afterOn = 0 then [usSpan true a]
      else
        let b := min off afterOn
        usSpan true a :: usSpan false b :: waveLoop on off fuel (afterOn - b)

/-- `carrier_wave(on, off, D)`: the pin inside a bit-banged mark of `D` microseconds (rule R164); the peripheral's carrier edges
are not modelled (DESIGN CHOICE, safe, assumption 12). Each cycle but the last takes
`on + off` microseconds, so `D / (on + off) + 1` cycles always suffice. -/
def carrierWave (on off d : Nat) : List Span :=
  if on = 0 ∧ off = 0 then [usSpan true d] else waveLoop on off (d / (on + off) + 1) d

/-- The pin waveform a microsecond span of the bit-bang backend stands for (rules R161, R164). -/
def spanWave (on off : Nat) (sp : Span) : List Span :=
  if sp.level then carrierWave on off sp.len else [usSpan false sp.len]

/-- Two spans an observer merges (rule R36). -/
def sameKind (a b : Span) : Bool := decide (a.level = b.level) && decide (a.per10us = b.per10us)

/-- Adjacent spans of one level and one unit become one (rule R36). -/
def mergeSpans : List Span → List Span
  | [] => []
  | a :: rest =>
    match mergeSpans rest with
    | [] => [a]
    | b :: more => if sameKind a b then { a with len := a.len + b.len } :: more else a :: b :: more

/-- A trace as observers compare it: empty spans dropped, then neighbours merged (rule R36). -/
def observed (trace : List Span) : List Span := mergeSpans (trace.filter fun sp => decide (sp.len ≠ 0))

/-- How long a span lasts, in microseconds: `len × 10 / per10us`, a rational (rules R36, R94). -/
def Span.us (sp : Span) : ℚ := sp.len * 10 / sp.per10us

/-- How long a trace lasts, in microseconds, whatever the units of its spans (rule R94). -/
def traceUs (trace : List Span) : ℚ := (trace.map Span.us).sum

end Sys2Proof.Machine
end

