-- ==== Sys2Proof/Machine/Agents.lean ====
section
/-! DEFINITION. Agents, contexts and enabling (rules R11, R270 to R275). -/

namespace Sys2Proof.Machine

/-- The agents that take steps (rule R11). -/
inductive Agent where
  | host
  | player
  | engine
  | edge
  | timer
  deriving DecidableEq, Repr

/-- The two execution contexts (rule R275). -/
inductive Context where
  | main
  | interrupt
  deriving DecidableEq, Repr

/-- Whose step an instruction is (rules R108, R270). -/
def agentOf : Instr → Agent
  | .encNec _ _ _ => .host
  | .encLg _ _ _ => .host
  | .encPanasonic _ _ _ => .host
  | .raw _ _ => .host
  | .repeatSeq _ _ => .host
  | .len => .host
  | .txConfig _ _ => .host
  | .txSetup => .host
  | .txSend => .host
  | .swCreate _ => .host
  | .swOn _ => .host
  | .swOff _ => .host
  | .rxSetup _ => .host
  | .rxReg _ _ _ _ _ => .host
  | .rxDispatch => .host
  | .evEdge _ _ => .edge
  | .evIdle _ => .timer
  | .evPlay => .player
  | .evResume => .engine

/-- The context an agent steps in; the peripheral belongs to neither (rule R275). -/
def contextOf : Agent → Option Context
  | .host => some .main
  | .engine => some .main
  | .edge => some .interrupt
  | .timer => some .interrupt
  | .player => none

/-- The enabled steps (the table of rule R270). -/
def enabled : Instr → State → Bool
  | .encNec _ _ _, s => s.hostFree
  | .encLg _ _ _, s => s.hostFree
  | .encPanasonic _ _ _, s => s.hostFree
  | .raw _ _, s => s.hostFree
  | .repeatSeq _ _, s => s.hostFree
  | .len, s => s.hostFree
  | .txConfig _ _, s => s.hostFree
  | .txSetup, s => s.hostFree
  | .txSend, s => s.hostFree
  | .swCreate _, s => s.hostFree
  | .swOn _, s => s.hostFree
  | .swOff _, s => s.hostFree
  | .rxSetup _, s => s.hostFree
  | .rxReg _ _ _ _ _, s => s.hostFree
  | .rxDispatch, s => s.hostFree
  | .evEdge _ _, s => s.edgeEnabled
  | .evIdle t, s => s.idleEnabled t
  | .evPlay, s => s.playEnabled
  | .evResume, s => s.resumeEnabled

end Sys2Proof.Machine
end

