-- ==== Sys2Proof/Safety.lean ====
section
/-! DEFINITION. What counts as a safe run: the invariants the rules give the state, and what the environment owes the block
(rules R203, R281; U13, U14). -/

namespace Sys2Proof.Machine

/-- A PulseSequence value every command that builds one checks (rules R23, R129). -/
structure PulseSeq.Legal (q : PulseSeq) (seqCapacity : Nat) : Prop where
  durations : wfDurations seqCapacity q.durations = true
  repeats : 1 ≤ q.repeatCount.toNat

/-- A decoder entry as `RX.REG` admits it (rules R45, R202). -/
structure DecEntry.Legal (e : DecEntry) (c : Config) : Prop where
  nbits : nbitsLegal (c.desc e.vendor) e.nbits.toNat = true
  expected : expectedFits (c.desc e.vendor) e.mode e.nbits.toNat e.expAddress e.expData = true

/-- An item a submission makes (rules R29, R93). -/
abbrev Item.Legal (x : Item) (itemTickMax : Nat) : Prop := 1 ≤ x.ticks ∧ x.ticks ≤ itemTickMax

/-- The invariant of the machine: what the rules say of every state a run reaches. -/
structure State.Inv (s : State) : Prop where
  /-- the parameters are in the spec's ranges (rules R6, R31) -/
  cfgValid : s.cfg.Valid
  /-- `SEQ` is well-formed (rule R23) -/
  seqLegal : s.seq.Legal s.cfg.seqCapacity
  /-- every stored sequence is well-formed (rule R23) -/
  slotsLegal : ∀ x ∈ s.slots, x.seq.Legal s.cfg.seqCapacity
  /-- `ENG_SEQ` is well-formed (rule R23) -/
  engSeqLegal : s.engSeq.Legal s.cfg.seqCapacity
  /-- `NSLOT_USED ≤ NSLOT` (rule R24) -/
  slotsFit : s.slots.length ≤ s.cfg.nslot
  /-- `STATUS` is 0 to 3 (rule R25) -/
  statusLegal : s.status.toNat ≤ 3
  /-- the duty is 1 to 100 (rule R27) -/
  dutyLegal : 1 ≤ s.carrierDuty.toNat ∧ s.carrierDuty.toNat ≤ 100
  /-- `ON_US` and `OFF_US` are those of the configured carrier (rules R28, R159) -/
  halfPeriods : ∀ f ∈ s.curCarrier, s.onUs.toNat = carrierOn f.toNat s.carrierDuty.toNat ∧
    s.offUs.toNat = carrierOff f.toNat s.carrierDuty.toNat
  /-- `CLOCK_DIVIDER` has no run-time write path (rule R29) -/
  divider : s.clockDivider = s.cfg.clockDivider
  /-- the tick rate after `TX.SETUP` (rules R29, R152) -/
  rate : s.txReady = true → s.cfg.backend = .peripheral → s.ticksPer10us.toNat = tickRate s ∧ 1 ≤ s.ticksPer10us.toNat
  /-- one engine, one channel (rule R29) -/
  channelZero : s.channel = 0
  /-- while playing, the cursor is on an item (rules R26, R170) -/
  busyCursor : s.txBusy = true → s.txPos < s.itemq.length
  /-- while not playing, the list is empty, the cursor 0 and the pin inactive (rules R162, R170, R172) -/
  notBusy : s.txBusy = false → s.itemq = [] ∧ s.txPos = 0 ∧ s.txOut = false
  /-- every item is 1 to `ITEM_TICK_MAX` ticks (rule R29) -/
  itemsLegal : ∀ x ∈ s.itemq, x.Legal s.cfg.itemTickMax
  /-- only a peripheral that is set up plays (rules R29, R157) -/
  busyReady : s.txBusy = true → s.txReady = true ∧ s.cfg.backend = .peripheral
  /-- the repeat loop is between its first pass and its last (rule R30) -/
  engineRange : s.engActive = true →
    s.txReady = true ∧ s.cfg.backend = .peripheral ∧ 1 ≤ s.engRep.toNat ∧ s.engRep.toNat < s.engSeq.repeatCount.toNat
  /-- interrupts are enabled between steps (rule R35) -/
  irqOn : s.irqEn = true
  /-- a span's unit is positive (rule R94) -/
  unitsPositive : ∀ sp ∈ s.txTrace, 1 ≤ sp.per10us
  /-- nothing is captured in `IDLE` (rule R41) -/
  idleEmpty : s.rxState = .idle → s.capBuf = []
  /-- before `RX.SETUP` the receiver is `IDLE` (rules R201, R210) -/
  unreadyIdle : s.rxReady = false → s.rxState = .idle
  /-- `CAP_LEN ≤ CAP_CAPACITY` (rule R40) -/
  capFits : s.capBuf.length ≤ s.cfg.capCapacity
  /-- a gap above the threshold is never stored (rule R206) -/
  capGaps : ∀ g ∈ s.capBuf, g.toNat ≤ s.cfg.idleUs
  /-- `NDEC_USED ≤ NDEC` (rule R45) -/
  decFits : s.dec.length ≤ s.cfg.ndec
  /-- every registered decoder passed the checks of `RX.REG` (rule R202) -/
  decLegal : ∀ e ∈ s.dec, e.Legal s.cfg
  /-- `GEN` counts completed captures: the dispatched ones and the one waiting (rules R43, R210) -/
  genCounts : s.gen.toNat = (s.rxLog.length + (if s.rxState = .done then 1 else 0)) % 2 ^ 32

/-- Timestamps of consecutive events never run backwards: the environment's duty (rule R203; U13). -/
def timestampsForward : List Word → Bool
  | [] => true
  | [_] => true
  | a :: b :: rest => decide ((b - a).toNat < 2 ^ 31) && timestampsForward (b :: rest)

/-- The levels of consecutive edge records alternate: physics, the environment's duty (U14). DESIGN CHOICE (log 27): it is asked of
the records of a list as they stand, also of two with a bit-bang send between them, where an edge was lost (rule R163). -/
def levelsAlternate : List Level → Bool
  | [] => true
  | [_] => true
  | a :: b :: rest => (a != b) && levelsAlternate (b :: rest)

/-- The timestamps of the event records of a list of steps, in order (rule R203). -/
def eventTimes (is : List Instr) : List Word :=
  is.filterMap fun i => match i with
    | .evEdge _ t => some t
    | .evIdle t => some t
    | _ => none

/-- The levels of the edges of a list of steps, in order (rule R203). -/
def edgeLevels (is : List Instr) : List Level :=
  is.filterMap fun i => match i with
    | .evEdge level _ => some level
    | _ => none

/-- A list of steps the environment may supply (rule R203; U13, U14). A claim about hardware is a claim about such lists; the
machine itself is total on every list. DESIGN CHOICE (log 27): two consecutive edge records to one level are illegal here even
where the edge between them was lost in a bit-bang send (rules R163, R205), which U14 does not settle. -/
def environmentLegal (is : List Instr) : Bool := timestampsForward (eventTimes is) && levelsAlternate (edgeLevels is)

/-- A run that has completed its transmissions: it ends in a quiescent state (rule R281). -/
def completes (is : List Instr) (s : State) : Prop := ∃ t, execAll is s = .next t ∧ t.quiescent = true

end Sys2Proof.Machine
end

