-- ==== Sys2Proof/Certificates/Slice0/Obligations.lean ====
section
/-! DEFINITION. The statements for the provers. Each docstring names the rule of spec/ it formalises. Wherever a statement gives a
next state as a record update of the state before, that equality is also the frame: every register, buffer and history that
the update does not name is unchanged. In it `result := none` says that the command returned no result value (rules R103, R105;
the port is the model's field, assumption 8). -/

namespace Sys2Proof.Claims

open Sys2Proof.Machine

/-- The rows of spec/opcode_table.json: operation, mask, match. -/
def opcodeRows : List (Opc × Word × Word) :=
  [(.encNec, 0xFFFF0000, 0x01010000), (.encLg, 0xFFFF0000, 0x01020000), (.encPanasonic, 0xFFFF0000, 0x01030000),
    (.raw, 0xFFFF0000, 0x02000000), (.repeatSeq, 0xFFFF0000, 0x03000000), (.len, 0xFFFFFFFF, 0x04000000),
    (.txConfig, 0xFF000000, 0x10000000), (.txSetup, 0xFFFFFFFF, 0x11000000), (.txSend, 0xFFFFFFFF, 0x12000000),
    (.swCreate, 0xFFFF0000, 0x18000000), (.swOn, 0xFFFF0000, 0x19000000), (.swOff, 0xFFFF0000, 0x1A000000),
    (.rxSetup, 0xFFFF0000, 0x20000000), (.rxReg, 0xFF700000, 0x21000000), (.rxDispatch, 0xFFFFFFFF, 0x22000000)] ++
  [(.evEdge, 0xFFFEFFFF, 0x80000000), (.evIdle, 0xFFFFFFFF, 0x81000000), (.evPlay, 0xFFFFFFFF, 0x82000000),
    (.evResume, 0xFFFFFFFF, 0x83000000)]

/-- The words after a header word, by the table of rule R101. -/
def wordsAfter (w : Word) : Nat :=
  let op := w.toNat / 2 ^ 24
  if op = 0x01 ∨ op = 0x21 then 2
  else if op = 0x02 then 1 + w.toNat % 2 ^ 16
  else if op = 0x03 ∨ op = 0x80 ∨ op = 0x81 then 1
  else 0

/-- `i` is a command that sends the sequence `q` in `s`: `TX.SEND` of `SEQ`, or `SW.ON` of a stored copy. -/
def Sends (i : Instr) (s : State) (q : PulseSeq) : Prop :=
  (i = .txSend ∧ q = s.seq) ∨ ∃ h slot, i = .swOn h ∧ s.slots[h.toNat]? = some slot ∧ q = slot.seq

/-- A space-encoded frame, its entries as signed microseconds: header, `nbits` bits most significant first, stop mark. -/
def FrameIs (F : List Duration) (word nbits : Nat) (hdrMark hdrSpace fixed zero one stop : Int) : Prop :=
  (F.map BitVec.toInt).length = 3 + 2 * nbits ∧
  (F.map BitVec.toInt)[0]? = some hdrMark ∧
  (F.map BitVec.toInt)[1]? = some (-hdrSpace) ∧
  (∀ k < nbits,
    (F.map BitVec.toInt)[2 + 2 * k]? = some fixed ∧
    (F.map BitVec.toInt)[3 + 2 * k]? = some (if word / 2 ^ (nbits - 1 - k) % 2 = 1 then -one else -zero)) ∧
  (F.map BitVec.toInt)[2 + 2 * nbits]? = some stop

/-- The state in which a send that reconfigures plays. -/
def afterCarrier (s : State) (f : BitVec 32) : State := if s.curCarrier = some f then s else s.reconfigure f

/-- The spans of one pass at one microsecond a unit. -/
def usPass (q : PulseSeq) : List Span :=
  q.durations.map fun (e : Duration) => { level := decide (0 < e.toInt), len := e.toInt.natAbs, per10us := 10 }

/-- The spans of the items of one pass. -/
def itemPass (s : State) (q : PulseSeq) : List Span :=
  (toItems s.ticksPer10us.toNat s.cfg.itemTickMax q.durations).map fun x =>
    { level := x.level, len := x.ticks, per10us := s.ticksPer10us.toNat }

/-- `repeat_count` copies of a pass with the gap span between them (rule R160). -/
def repeated (q : PulseSeq) (pass : List Span) : List Span :=
  List.intercalate [{ level := false, len := q.repeatGap.toNat, per10us := 10 }] (List.replicate q.repeatCount.toNat pass)

/-- The playback steps of a peripheral send: every item of each pass, a resumption between passes. -/
def playSteps (nItems passes : Nat) : List Instr :=
  List.replicate nItems .evPlay ++ (List.replicate (passes - 1) (.evResume :: List.replicate nItems .evPlay)).flatten

/-- An answer with its next state changed. -/
def mapNext (f : State → State) : Answer → Answer
  | .next t => .next (f t)
  | .fault e => .fault e
  | .refused r => .refused r

/-- The edges that follow one another by the durations of a sequence, the first to `level`. -/
def edgesFrom (level : Level) (t : Word) : List Duration → List Instr
  | [] => []
  | e :: es => .evEdge level (t + BitVec.ofNat 32 e.toInt.natAbs) :: edgesFrom (!level) (t + BitVec.ofNat 32 e.toInt.natAbs) es

/-- The edges an on-time frame produces, the first to active at `t` (rule R215). -/
def frameEdges (t : Word) (F : List Duration) : List Instr := .evEdge true t :: edgesFrom false t F

/-- The sum of the durations of a sequence. -/
def spanUs (F : List Duration) : Nat := (F.map fun (e : Duration) => e.toInt.natAbs).sum

/-- What a raised error leaves: only `STATUS` and the result port differ (rule R262). -/
def failed (s : State) (code : BitVec 8) : Answer := .next { s with status := code, result := none }

end Sys2Proof.Claims

section
open Sys2Proof Sys2Proof.Machine Sys2Proof.Claims

/-- Rules R100, R103, R104: no bit of an encoding is dropped. -/
def Obligations.DecodeEncodeRoundTrip : Prop :=
  ∀ (i : Instr) (rest : List Word), i.wellFormed = true → decode (encode i ++ rest) = .instr i rest

/-- Rules R100, R103, R107: each word sequence has one meaning, and only well-formed instructions are decoded. -/
def Obligations.EncodeDecodeRoundTrip : Prop :=
  ∀ (ws : List Word) (i : Instr) (rest : List Word),
    decode ws = .instr i rest → i.wellFormed = true ∧ encode i ++ rest = ws

/-- Rule R101: a command's length is a function of its header word, for accepted and rejected commands alike. -/
def Obligations.CommandLengthFromHeader : Prop :=
  ∀ (w : Word) (ws : List Word),
    (ws.length < wordsAfter w → decode (w :: ws) = .truncated) ∧
    (wordsAfter w ≤ ws.length →
      (∃ i, decode (w :: ws) = .instr i (ws.drop (wordsAfter w))) ∨
      (∃ why, decode (w :: ws) = .illegal why (ws.drop (wordsAfter w))))

/-- Rules R103, R106: an operation is decoded exactly from the header words its row of the opcode table matches. -/
def Obligations.DecodeFollowsOpcodeTable : Prop :=
  ∀ row ∈ opcodeRows, ∀ (w : Word) (ws : List Word), wordsAfter w ≤ ws.length →
    ((∃ i rest, decode (w :: ws) = .instr i rest ∧ i.header.opc = .ok row.1) ↔ w &&& row.2.1 = row.2.2)

/-- Rules R106, R101, R262: a header word that no row matches is a command that raises `InvalidArgument`, its operand words
consumed. That it is a host command whatever its `OP`, and so is refused while the host is held, is the model's inference
(assumption 7). -/
def Obligations.IllegalCommandRaisesInvalidArgument : Prop :=
  ∀ (s : State) (w : Word) (ws : List Word), s.stream = w :: ws → wordsAfter w ≤ ws.length →
    (∀ row ∈ opcodeRows, w &&& row.2.1 ≠ row.2.2) →
    (s.engActive = false → step s = .next { s with stream := ws.drop (wordsAfter w), status := 1, result := none }) ∧
    (s.engActive = true → step s = .refused .hostBlocked)

/-- Rule R103 on the words spec/95_test_vectors.md writes out, one instruction of each family. -/
def Obligations.SpecWordsDecode : Prop :=
  decode [0x01010020, 4, 8] = .instr (.encNec 32 4 8) [] ∧
  decode [0x02000003, 0, 0x3E8, 0xFFFFFE0C, 0x3E8] = .instr (.raw 0 [1000, 0xFFFFFE0C, 1000]) [] ∧
  decode [0x10210005] = .instr (.txConfig 33 5) [] ∧
  decode [0x18000007] = .instr (.swCreate 7) [] ∧
  decode [0x21820020, 0, 0] = .instr (.rxReg .dump 2 32 0 0) [] ∧
  decode [0x80010000, 0x3E8] = .instr (.evEdge true 1000) [] ∧
  decode [0x84000000] = .illegal .undefinedOp []

/-- Rules R100, R107, R108, R292: a step takes the next command or record off the stream and runs it; a stream that ends, or
ends inside a command, has no step. -/
def Obligations.StepRunsDecodedInstruction : Prop :=
  ∀ s : State,
    (∀ i rest, decode s.stream = .instr i rest → step s = exec i { s with stream := rest }) ∧
    (decode s.stream = .truncated → step s = .refused .streamTruncated) ∧
    (s.stream = [] → step s = .refused .streamEnded)

/-- Rules R70, R250: what a command does depends on nothing that follows it in the stream. -/
def Obligations.ExecIgnoresStream : Prop :=
  ∀ (i : Instr) (s : State) (ws : List Word),
    exec i { s with stream := ws } = mapNext (fun t => { t with stream := ws }) (exec i s)

/-- Rule R250: a stream is executed strictly in order, one command at a time. -/
def Obligations.StreamRunsInstructionsInOrder : Prop :=
  ∀ (is : List Instr) (s t : State) (rest : List Word),
    (∀ i ∈ is, i.wellFormed = true) → execAll is { s with stream := rest } = .next t →
    Host.Core.run core is.length { s with stream := is.flatMap encode ++ rest } = .next t

/-- Rule R55: the value after reset of every piece of state the table gives one, for every configuration; `CLOCK_DIVIDER` and
`CARRIER_DUTY` are the parameters'. -/
def Obligations.ResetValues : Prop :=
  ∀ (c : Config) (s : State), s = State.resetWith c →
    s.cfg = c ∧ s.seq = ⟨0, [], 1, 0⟩ ∧ s.nslotUsed = 0 ∧ s.status = 0 ∧ s.txPin = 0 ∧ s.carrierDuty = c.dutyReset ∧
    s.txReady = false ∧ s.curCarrier = none ∧ s.reconfCount = 0 ∧ s.onUs = 0 ∧ s.offUs = 0 ∧
    s.clockDivider = c.clockDivider ∧ s.ticksPer10us = 0 ∧ s.channel = 0 ∧ s.itemq = [] ∧ s.txPos = 0 ∧
    s.txBusy = false ∧ s.engActive = false ∧ s.engRep = 0 ∧ s.irqEn = true ∧ s.txOut = false ∧ s.txTrace = [] ∧
    s.rxPin = 0 ∧ s.rxReady = false ∧ s.rxState = .idle ∧ s.capLen = 0 ∧ s.gen = 0 ∧ s.ndecUsed = 0 ∧ s.rxLog = []

/-- The invariant holds after reset, for every legal configuration, so in `State.reset`; the configurations with the values of
rule R6 and either backend are legal, and `State.reset` launches with one of them. The reset values the model chose (`LAST_EDGE`,
`ENG_SEQ`; assumption 5) enter only as legal values. -/
def Obligations.ResetMeetsInvariant : Prop :=
  (∀ c : Config, c.Valid → (State.resetWith c).Inv) ∧ (∀ b : Backend, (specConfig b).Valid) ∧ State.reset.Inv ∧
    ∃ b : Backend, State.reset = State.resetWith (specConfig b)

/-- Every step of every agent keeps the invariant. -/
def Obligations.StepKeepsInvariant : Prop :=
  ∀ s t : State, s.Inv → step s = .next t → t.Inv

/-- Rule R63: an out-of-range index is never generated, so under the invariant no instruction faults. -/
def Obligations.NoFaultUnderInvariant : Prop :=
  ∀ (i : Instr) (s : State) (f : Fault), s.Inv → exec i s ≠ .fault f ∧ step s ≠ .fault f

/-- Rules R24, R36, R45, R46: the histories are never cleared, slots and decoder entries never rewritten or removed. -/
def Obligations.HistoriesOnlyGrow : Prop :=
  ∀ (i : Instr) (s t : State), exec i s = .next t →
    s.txTrace <+: t.txTrace ∧ s.rxLog <+: t.rxLog ∧ s.slots <+: t.slots ∧ s.dec <+: t.dec

/-- Rules R6, R29, R56: the parameters, the descriptor table and `CLOCK_DIVIDER` have no run-time write path. -/
def Obligations.ConfigurationNeverChanges : Prop :=
  ∀ s t : State, step s = .next t → t.cfg = s.cfg ∧ t.clockDivider = s.clockDivider

/-- Rule R25: every command writes `STATUS` with one of four codes; no event step writes it. That an event step leaves the result
port too is the model's reading of rule R105 (assumption 8). -/
def Obligations.StatusWrittenByCommandsOnly : Prop :=
  ∀ (i : Instr) (s t : State), exec i s = .next t →
    (agentOf i = .host → t.status = 0 ∨ t.status = 1 ∨ t.status = 2 ∨ t.status = 3) ∧
    (agentOf i ≠ .host → t.status = s.status ∧ t.result = s.result)

/-- Rule R262: a command that ends with an error changes nothing but `STATUS` and returns no result value. -/
def Obligations.FailedCommandChangesOnlyStatus : Prop :=
  ∀ (i : Instr) (s t : State), agentOf i = .host → exec i s = .next t → t.status ≠ 0 →
    t = { s with status := t.status, result := none }

/-- Rule R270: in every state that meets the invariant, the steps that may be taken are those of the table. Its `EV.EDGE` row also
asks that the pin did change; the model takes every edge record, whether or not it did, which is its own choice
(assumption 10). -/
def Obligations.EnabledExactlyAsTable : Prop :=
  ∀ s : State, s.Inv →
    (∀ i, agentOf i = .host → ((∃ t, exec i s = .next t) ↔ s.engActive = false)) ∧
    (∀ i, agentOf i = .host → s.engActive = true → exec i s = .refused .hostBlocked) ∧
    ((∃ t, exec .evPlay s = .next t) ↔ s.txBusy = true) ∧
    ((∃ t, exec .evResume s = .next t) ↔ s.engActive = true ∧ s.txBusy = false) ∧
    (∀ level time, (∃ t, exec (.evEdge level time) s = .next t) ↔ s.rxReady = true ∧ s.irqEn = true) ∧
    (∀ time, (∃ t, exec (.evIdle time) s = .next t) ↔
      s.rxReady = true ∧ s.irqEn = true ∧ s.rxState = .capturing ∧
        (time.toNat + 2 ^ 32 - s.lastEdge.toNat) % 2 ^ 32 > s.cfg.idleUs)

/-- Rule R60, column "written by": a buffer changes only in a step of one of its writers; `CAP_LEN` is also written by
`RX.SETUP` and `RX.DISPATCH` (rules R201, R210). -/
def Obligations.BuffersHaveTheirWriters : Prop :=
  ∀ (i : Instr) (s t : State), exec i s = .next t →
    (t.seq ≠ s.seq → i.header.opc ∈ [.ok .encNec, .ok .encLg, .ok .encPanasonic, .ok .raw, .ok .repeatSeq]) ∧
    (t.slots ≠ s.slots → i.header.opc = .ok .swCreate) ∧
    (t.engSeq ≠ s.engSeq → i.header.opc ∈ [.ok .txSend, .ok .swOn]) ∧
    (t.itemq ≠ s.itemq → i.header.opc ∈ [.ok .txSend, .ok .swOn, .ok .evPlay, .ok .evResume]) ∧
    (t.capBuf ≠ s.capBuf → i.header.opc ∈ [.ok .evEdge, .ok .rxDispatch, .ok .rxSetup]) ∧
    (t.dec ≠ s.dec → i.header.opc = .ok .rxReg) ∧
    (t.txTrace ≠ s.txTrace → i.header.opc ∈ [.ok .txSend, .ok .swOn, .ok .evPlay, .ok .evResume]) ∧
    (t.rxLog ≠ s.rxLog → i.header.opc = .ok .rxDispatch)

/-- Rules R163, R200: the transmitter's commands and steps write no receiver state; the receiver's write no transmitter,
peripheral or engine state. -/
def Obligations.TransmitAndReceiveAreSeparate : Prop :=
  ∀ (i : Instr) (s t : State), exec i s = .next t →
    (i.header.opc ∉ [.ok .rxSetup, .ok .rxReg, .ok .rxDispatch, .ok .evEdge, .ok .evIdle] →
      t.rxPin = s.rxPin ∧ t.rxReady = s.rxReady ∧ t.rxState = s.rxState ∧ t.capBuf = s.capBuf ∧
      t.lastEdge = s.lastEdge ∧ t.gen = s.gen ∧ t.dec = s.dec ∧ t.rxLog = s.rxLog) ∧
    (i.header.opc ∈ [.ok .rxSetup, .ok .rxReg, .ok .rxDispatch, .ok .evEdge, .ok .evIdle] →
      t.seq = s.seq ∧ t.slots = s.slots ∧ t.txPin = s.txPin ∧ t.carrierDuty = s.carrierDuty ∧ t.txReady = s.txReady ∧
      t.curCarrier = s.curCarrier ∧ t.reconfCount = s.reconfCount ∧ t.onUs = s.onUs ∧ t.offUs = s.offUs ∧
      t.ticksPer10us = s.ticksPer10us ∧ t.channel = s.channel ∧ t.itemq = s.itemq ∧ t.txPos = s.txPos ∧
      t.txBusy = s.txBusy ∧ t.engActive = s.engActive ∧ t.engSeq = s.engSeq ∧ t.engRep = s.engRep ∧
      t.irqEn = s.irqEn ∧ t.txOut = s.txOut ∧ t.txTrace = s.txTrace)

/-- Rules R85, R87: the frame an encode gives, entry by entry, for both values of `BIT_IN_MARK`, `MSB_FIRST` and `HAS_STOP`. -/
def Obligations.FrameLayout : Prop :=
  ∀ (P : Descriptor) (address data nbits : Nat) (F : List Duration), P.Valid →
    encodeFrame P address data nbits = some F →
    let word := address * 2 ^ (nbits - P.addrBits) + data
    let one (k : Nat) : Prop := (if P.msbFirst then word / 2 ^ (nbits - 1 - k) else word / 2 ^ k) % 2 = 1
    let G := F.map BitVec.toInt
    G.length = 2 + 2 * nbits + (if P.hasStop then 1 else 0) ∧
    G[0]? = some (P.hdrMarkUs : Int) ∧ G[1]? = some (-(P.hdrSpaceUs : Int)) ∧
    (∀ k < nbits, P.bitInMark = false → G[2 + 2 * k]? = some (P.bitFixedUs : Int) ∧
      (one k → G[3 + 2 * k]? = some (-(P.bitOneUs : Int))) ∧ (¬one k → G[3 + 2 * k]? = some (-(P.bitZeroUs : Int)))) ∧
    (∀ k < nbits, P.bitInMark = true → G[3 + 2 * k]? = some (-(P.bitFixedUs : Int)) ∧
      (one k → G[2 + 2 * k]? = some (P.bitOneUs : Int)) ∧ (¬one k → G[2 + 2 * k]? = some (P.bitZeroUs : Int))) ∧
    (P.hasStop = true → G[2 + 2 * nbits]? = some (P.stopMarkUs : Int))

/-- Rule R121, with the descriptor of rule R32 and the frame of rule R88's table. -/
def Obligations.EncNecBuildsItsFrame : Prop :=
  ∀ (s : State) (nbits : BitVec 16) (address command : Word), s.engActive = false → s.cfg.nec = descNEC →
    (nbits.toNat = 32 ∧ address.toNat < 2 ^ 16 ∧ command.toNat < 2 ^ 16 →
      ∃ F, FrameIs F (address.toNat * 2 ^ 16 + command.toNat) 32 9000 4500 560 560 1690 560 ∧
        exec (.encNec nbits address command) s = .next { s with seq := ⟨38000, F, 1, 0⟩, status := 0, result := none }) ∧
    (¬(nbits.toNat = 32 ∧ address.toNat < 2 ^ 16 ∧ command.toNat < 2 ^ 16) →
      exec (.encNec nbits address command) s = failed s 1)

/-- Rule R122, with the descriptor of rule R33 and the frame of rule R89's table. -/
def Obligations.EncLgBuildsItsFrame : Prop :=
  ∀ (s : State) (nbits : BitVec 16) (address data : Word), s.engActive = false → s.cfg.lg = descLG →
    (1 ≤ nbits.toNat ∧ nbits.toNat ≤ 32 ∧ address = 0 ∧ data.toNat < 2 ^ nbits.toNat →
      ∃ F, FrameIs F data.toNat nbits.toNat 8000 4000 600 550 1600 600 ∧
        exec (.encLg nbits address data) s = .next { s with seq := ⟨38000, F, 1, 0⟩, status := 0, result := none }) ∧
    (¬(1 ≤ nbits.toNat ∧ nbits.toNat ≤ 32 ∧ address = 0 ∧ data.toNat < 2 ^ nbits.toNat) →
      exec (.encLg nbits address data) s = failed s 1)

/-- Rule R123, with the descriptor of rule R34 and the frame of rule R90's table. -/
def Obligations.EncPanasonicBuildsItsFrame : Prop :=
  ∀ (s : State) (nbits : BitVec 16) (address data : Word), s.engActive = false → s.cfg.panasonic = descPanasonic →
    (nbits.toNat = 48 ∧ address.toNat < 2 ^ 16 →
      ∃ F, FrameIs F (address.toNat * 2 ^ 32 + data.toNat) 48 3502 1750 502 400 1244 502 ∧
        exec (.encPanasonic nbits address data) s =
          .next { s with seq := ⟨35000, F, 1, 0⟩, status := 0, result := none }) ∧
    (¬(nbits.toNat = 48 ∧ address.toNat < 2 ^ 16) → exec (.encPanasonic nbits address data) s = failed s 1)

/-- Rules R120, R124, R125, for every legal descriptor table: which fields an `ENC.*` accepts, that it writes the frame
`encodeFrame` gives (`FrameLayout` says which that is), and the alternation invariant. -/
def Obligations.EncoderOutputsAlternate : Prop :=
  ∀ (v : Vendor) (s : State) (address data : Word) (nbits : BitVec 16), s.Inv → s.engActive = false →
    let P := s.cfg.desc v
    let ok := P.nbitsMin ≤ nbits.toNat ∧ nbits.toNat ≤ P.nbitsMax ∧ address.toNat < 2 ^ P.addrBits ∧
      data.toNat < 2 ^ (nbits.toNat - P.addrBits)
    (ok → ∃ F : List Duration, encodeFrame P address.toNat data.toNat nbits.toNat = some F ∧
      exec (encInstr v address data nbits) s = .next { s with seq := ⟨P.carrierHz, F, 1, 0⟩, status := 0, result := none } ∧
      F.length ≤ 99 ∧ F.length ≤ s.cfg.seqCapacity ∧
      ∀ (k : Nat) (e : Duration), F[k]? = some e → e.toInt ≠ 0 ∧ (0 < e.toInt ↔ k % 2 = 0)) ∧
    (¬ok → exec (encInstr v address data nbits) s = failed s 1)

/-- Rules R128, R129: `RAW` takes exactly the well-formed sequences, whole, and rejects every other. -/
def Obligations.RawTakesExactlyWellFormedSequences : Prop :=
  ∀ (s : State) (carrier : Word) (d : List Duration), s.engActive = false →
    let ok := d.length ≤ s.cfg.seqCapacity ∧ (∀ e ∈ d, e.toInt ≠ 0 ∧ e.toInt ≠ -2 ^ 31) ∧
      (∀ (k : Nat) (e f : Duration), d[k]? = some e → d[k + 1]? = some f → (0 < e.toInt ↔ f.toInt < 0))
    (ok → exec (.raw carrier d) s = .next { s with seq := ⟨carrier, d, 1, 0⟩, status := 0, result := none }) ∧
    (¬ok → exec (.raw carrier d) s = failed s 1)

/-- Rule R132: the carrier and the durations are kept, the two repeat fields replaced; `n = 0` is `InvalidArgument`. -/
def Obligations.RepeatReplacesRepeatFields : Prop :=
  ∀ (s : State) (n : BitVec 16) (gap : Word), s.engActive = false →
    (n.toNat = 0 → exec (.repeatSeq n gap) s = failed s 1) ∧
    (n.toNat ≠ 0 → exec (.repeatSeq n gap) s =
      .next { s with seq := ⟨s.seq.carrier, s.seq.durations, n, gap⟩, status := 0, result := none })

/-- Rules R135, R136: `LEN` returns `total_length(SEQ)` exactly, in 64 bits, and changes nothing else. -/
def Obligations.LenReturnsTotalLength : Prop :=
  ∀ s : State, s.Inv → s.engActive = false →
    ∃ v : BitVec 64, exec .len s = .next { s with status := 0, result := some (.total v) } ∧
      v.toNat = s.seq.repeatCount.toNat * spanUs s.seq.durations + (s.seq.repeatCount.toNat - 1) * s.seq.repeatGap.toNat

/-- Rule R64: issuing one of these twice leaves the same state as once. -/
def Obligations.BuildersAreIdempotent : Prop :=
  ∀ (i : Instr) (s t : State),
    i.header.opc ∈ [.ok .encNec, .ok .encLg, .ok .encPanasonic, .ok .raw, .ok .repeatSeq, .ok .len, .ok .txConfig] →
    exec i s = .next t → exec i t = .next t

/-- Rule R137, for every legal descriptor whose zero and one differ and every tolerance; the three descriptors of the spec
are such. -/
def Obligations.DecodeOfEncodeIsTheCommand : Prop :=
  (∀ (tolPercent : Nat) (P : Descriptor) (nbits address data : Nat), P.Valid → P.bitZeroUs ≠ P.bitOneUs →
    P.nbitsMin ≤ nbits → nbits ≤ P.nbitsMax → address < 2 ^ P.addrBits → data < 2 ^ (nbits - P.addrBits) →
    ∃ F, encodeFrame P address data nbits = some F ∧
      decodeFrame tolPercent P nbits (captureOf F) = some (address, data)) ∧
  (∀ P ∈ [descNEC, descLG, descPanasonic], P.Valid ∧ P.bitZeroUs ≠ P.bitOneUs)

/-- Rules R231, R232: for every legal tolerance the window is exactly the values from the ceiling of its lower bound to the floor of
its upper bound; so both edges are inside and one unit past either is outside. -/
def Obligations.ToleranceEdgesAreInside : Prop :=
  ∀ tolPercent ref : Nat, tolPercent ≤ 99 → 1 ≤ ref →
    let upper := (100 + tolPercent) * ref / 100
    let lower := ((100 - tolPercent) * ref + 99) / 100
    (∀ d : Nat, within tolPercent d ref = true ↔ lower ≤ d ∧ d ≤ upper) ∧
    within tolPercent upper ref = true ∧ within tolPercent (upper + 1) ref = false ∧
    within tolPercent lower ref = true ∧ within tolPercent (lower - 1) ref = false ∧ 1 ≤ lower

/-- Rule R233: which bit a duration stands for; at 25 percent the three descriptors' windows are disjoint. -/
def Obligations.ClassifyNearestWithinTolerance : Prop :=
  (∀ (tolPercent v : Nat) (P : Descriptor),
    let z := within tolPercent v P.bitZeroUs = true
    let o := within tolPercent v P.bitOneUs = true
    let nearer := (Int.natAbs ((v : Int) - P.bitOneUs)) ≤ Int.natAbs ((v : Int) - P.bitZeroUs)
    (classify tolPercent v P = none ↔ ¬z ∧ ¬o) ∧
    (classify tolPercent v P = some true ↔ o ∧ (z → nearer)) ∧
    (classify tolPercent v P = some false ↔ z ∧ (o → ¬nearer))) ∧
  (∀ P ∈ [descNEC, descLG, descPanasonic], ∀ v, ¬(within 25 v P.bitZeroUs = true ∧ within 25 v P.bitOneUs = true))

/-- Rules R237, R238: two captures long enough for the frame that agree in the header and the discriminating durations decode
alike, whatever their bit marks, stop mark and further entries. -/
def Obligations.DecodeReadsOnlyHeaderAndBits : Prop :=
  ∀ (tolPercent : Nat) (P : Descriptor) (nbits : Nat) (x y : List (BitVec 32)),
    2 + 2 * nbits + P.hasStop.toNat ≤ x.length → 2 + 2 * nbits + P.hasStop.toNat ≤ y.length →
    x[0]? = y[0]? → x[1]? = y[1]? →
    (∀ k < nbits, x[if P.bitInMark then 2 + 2 * k else 3 + 2 * k]? = y[if P.bitInMark then 2 + 2 * k else 3 + 2 * k]?) →
    decodeFrame tolPercent P nbits x = decodeFrame tolPercent P nbits y

/-- Rule R241: clean NEC and 32-bit LG frames decode under each other's descriptor to the same bits; Panasonic frames and the
other two never. -/
def Obligations.NecAndLgDecodeEachOther : Prop :=
  (∀ address command F, encodeFrame descNEC address command 32 = some F →
    decodeFrame 25 descLG 32 (captureOf F) = some (0, address * 2 ^ 16 + command) ∧
    decodeFrame 25 descPanasonic 48 (captureOf F) = none) ∧
  (∀ data F, encodeFrame descLG 0 data 32 = some F →
    decodeFrame 25 descNEC 32 (captureOf F) = some (data / 2 ^ 16, data % 2 ^ 16) ∧
    decodeFrame 25 descPanasonic 48 (captureOf F) = none) ∧
  (∀ address data F, encodeFrame descPanasonic address data 48 = some F →
    decodeFrame 25 descNEC 32 (captureOf F) = none ∧ ∀ nbits, decodeFrame 25 descLG nbits (captureOf F) = none)

/-- Rule R151: the checks of `TX.CONFIG` in order, and what it writes. -/
def Obligations.TxConfigChecksThenWrites : Prop :=
  ∀ (s : State) (duty : BitVec 8) (pin : BitVec 16), s.engActive = false →
    (duty.toNat = 0 ∨ 100 < duty.toNat → exec (.txConfig duty pin) s = failed s 1) ∧
    (1 ≤ duty.toNat → duty.toNat ≤ 100 → s.txBusy = true → exec (.txConfig duty pin) s = failed s 2) ∧
    (1 ≤ duty.toNat → duty.toNat ≤ 100 → s.txBusy = false → exec (.txConfig duty pin) s =
      .next { s with txPin := pin, carrierDuty := duty, curCarrier := none, status := 0, result := none })

/-- Rule R152: `TX.SETUP` on either backend, a second one, and a divider that gives no tick; the tick rate exactly. -/
def Obligations.TxSetupOnce : Prop :=
  ∀ s : State, s.Inv → s.engActive = false →
    let rate := s.cfg.baseClockHz / (s.clockDivider.toNat * 100000)
    (s.txReady = true → exec .txSetup s = failed s 1) ∧
    (s.txReady = false → s.cfg.backend = .bitbang → exec .txSetup s =
      .next { s with txOut := false, curCarrier := none, txReady := true, status := 0, result := none }) ∧
    (s.txReady = false → s.cfg.backend = .peripheral → rate = 0 → exec .txSetup s = failed s 1) ∧
    (s.txReady = false → s.cfg.backend = .peripheral → rate ≠ 0 → ∃ r : BitVec 32, r.toNat = rate ∧
      exec .txSetup s = .next { s with ticksPer10us := r, channel := 0, txOut := false, curCarrier := none,
                                       txReady := true, status := 0, result := none })

/-- Rules R153, R156, R157, R266: the sends that do not play, in the order of the checks. -/
def Obligations.SendChecksInOrder : Prop :=
  ∀ (i : Instr) (s : State) (q : PulseSeq), s.engActive = false → Sends i s q →
    (s.txReady = false → exec i s = failed s 3) ∧
    (s.txReady = true → q.durations = [] → exec i s = .next { s with status := 0, result := none }) ∧
    (s.txReady = true → q.durations ≠ [] → s.cfg.backend = .peripheral → s.txBusy = true → exec i s = failed s 2) ∧
    (s.cfg.backend = .bitbang → ∀ t, exec i s = .next t → t.status ≠ 2)

/-- Rules R160, R162: a bit-bang send, whole: the spans of every pass with a gap between passes, the pin inactive, interrupts
enabled, and nothing else but the reconfiguration of rule R158. -/
def Obligations.BitbangSendEmitsEveryPass : Prop :=
  ∀ (i : Instr) (s : State) (q : PulseSeq), s.engActive = false → Sends i s q →
    s.txReady = true → q.durations ≠ [] → s.cfg.backend = .bitbang →
    exec i s = .next { afterCarrier s q.carrier with
      txTrace := s.txTrace ++ repeated q (usPass q), txOut := false, irqEn := true, status := 0, result := none }

/-- Rules R158, R159: a send that plays reconfigures once if the carrier differs and not at all if it does not; the half
periods it computes. -/
def Obligations.ReconfigureOnlyOnChange : Prop :=
  ∀ (i : Instr) (s : State) (q : PulseSeq), s.engActive = false → Sends i s q → s.Inv →
    s.txReady = true → q.durations ≠ [] → s.txBusy = false →
    ∃ t, exec i s = .next t ∧ t.status = 0 ∧ t.curCarrier = some q.carrier ∧
      (s.curCarrier = some q.carrier → t.reconfCount = s.reconfCount ∧ t.onUs = s.onUs ∧ t.offUs = s.offUs) ∧
      (s.curCarrier ≠ some q.carrier →
        t.reconfCount.toNat = (s.reconfCount.toNat + 1) % 2 ^ 32 ∧
        let f := q.carrier.toNat
        let period := max 1 ((1000000 + f / 2) / f)
        (f = 0 → t.onUs = 0 ∧ t.offUs = 0) ∧
        (f ≠ 0 → t.onUs.toNat = period * s.carrierDuty.toNat / 100 ∧ t.offUs.toNat = period - t.onUs.toNat))

/-- Rules R165, R167: a peripheral send submits the first pass and returns; with more passes the engine takes a copy and holds
the host. -/
def Obligations.PeripheralSendSubmits : Prop :=
  ∀ (i : Instr) (s : State) (q : PulseSeq), s.engActive = false → Sends i s q →
    s.txReady = true → q.durations ≠ [] → s.cfg.backend = .peripheral → s.txBusy = false →
    let items := toItems s.ticksPer10us.toNat s.cfg.itemTickMax q.durations
    (q.repeatCount = 1 → exec i s = .next { afterCarrier s q.carrier with
      itemq := items, txPos := 0, txBusy := decide (items.length > 0), status := 0, result := none }) ∧
    (q.repeatCount ≠ 1 → exec i s = .next { afterCarrier s q.carrier with
      itemq := items, txPos := 0, txBusy := decide (items.length > 0), engSeq := q, engRep := 1, engActive := true,
      status := 0, result := none })

/-- Rule R166: the items of each entry in turn: its level, full items until the last, 1 to `ITEM_TICK_MAX` ticks each, exactly
the entry's ticks in all. -/
def Obligations.ItemsCarryTheTicks : Prop :=
  ∀ (rate itemTickMax : Nat) (d : List Duration), 1 ≤ itemTickMax →
    toItems rate itemTickMax d = (d.map (itemsOf rate itemTickMax)).flatten ∧
    ∀ e ∈ d,
      let q := itemsOf rate itemTickMax e
      (q.map (·.ticks)).sum = e.toInt.natAbs * rate / 10 ∧
      (∀ x ∈ q, x.level = decide (0 < e.toInt) ∧ 1 ≤ x.ticks ∧ x.ticks ≤ itemTickMax) ∧
      (∀ (k : Nat) (x : Item), k + 1 < q.length → q[k]? = some x → x.ticks = itemTickMax)

/-- Rule R170: `EV.PLAY` emits the item under the cursor and moves on, or ends playback with the last; while nothing plays it is
no step (rule R108). -/
def Obligations.PlayEmitsOneItem : Prop :=
  (∀ s : State, s.txBusy = false → exec .evPlay s = .refused .playNotEnabled) ∧
  ∀ (s : State) (x : Item), s.txBusy = true → s.itemq[s.txPos]? = some x →
    let trace := s.txTrace ++ [{ level := x.level, len := x.ticks, per10us := s.ticksPer10us.toNat }]
    (s.txPos + 1 < s.itemq.length →
      exec .evPlay s = .next { s with txTrace := trace, txOut := x.level, txPos := s.txPos + 1 }) ∧
    (¬s.txPos + 1 < s.itemq.length →
      exec .evPlay s = .next { s with txTrace := trace, txBusy := false, itemq := [], txPos := 0, txOut := false })

/-- Rule R172: `EV.RESUME` emits the gap, submits the next pass, counts it, and lets the host go after the last; it is a step
only between passes (rule R108). -/
def Obligations.ResumeSubmitsTheNextPass : Prop :=
  (∀ s : State, ¬(s.engActive = true ∧ s.txBusy = false) → exec .evResume s = .refused .resumeNotEnabled) ∧
  ∀ s : State, s.Inv → s.engActive = true → s.txBusy = false →
    let items := toItems s.ticksPer10us.toNat s.cfg.itemTickMax s.engSeq.durations
    ∃ rep : BitVec 16, rep.toNat = s.engRep.toNat + 1 ∧
      exec .evResume s = .next { s with
        txTrace := s.txTrace ++ [{ level := false, len := s.engSeq.repeatGap.toNat, per10us := 10 }], txOut := false,
        itemq := items, txPos := 0, txBusy := decide (items.length > 0), engRep := rep,
        engActive := decide (rep.toNat ≠ s.engSeq.repeatCount.toNat) }

/-- Rules R158, R160, R170, R172, R174: a peripheral send followed by its enabled playback steps runs to quiescence, has added
exactly its passes with a gap between them, and has reconfigured once if the carrier differed and not at all if it did not,
however many passes it played. -/
def Obligations.PeripheralPlaysTheWholeSend : Prop :=
  ∀ (i : Instr) (s : State) (q : PulseSeq), s.Inv → s.engActive = false → s.txBusy = false → Sends i s q →
    s.txReady = true → q.durations ≠ [] → s.cfg.backend = .peripheral →
    ∃ t, execAll (i :: playSteps (toItems s.ticksPer10us.toNat s.cfg.itemTickMax q.durations).length q.repeatCount.toNat) s
        = .next t ∧
      t.quiescent = true ∧ t.txTrace = s.txTrace ++ repeated q (itemPass s q) ∧ t.txOut = false ∧ t.status = 0 ∧
      t.seq = s.seq ∧ t.slots = s.slots ∧ t.curCarrier = some q.carrier ∧
      t.reconfCount = (if s.curCarrier = some q.carrier then s.reconfCount else s.reconfCount + 1)

/-- Rules R94, R135, R174: the spans a bit-bang send adds last `total_length` microseconds; with a tick rate that is a positive
multiple of 10 the spans of a peripheral send do too, and each pass has exactly the ticks of its entries. -/
def Obligations.TraceLastsTotalLength : Prop :=
  let total (q : PulseSeq) : Nat :=
    q.repeatCount.toNat * spanUs q.durations + (q.repeatCount.toNat - 1) * q.repeatGap.toNat
  (∀ (i : Instr) (s t : State) (q : PulseSeq), s.Inv → Sends i s q → s.txReady = true → q.durations ≠ [] →
    s.cfg.backend = .bitbang → exec i s = .next t → traceUs (t.txTrace.drop s.txTrace.length) = total q) ∧
  (∀ (s : State) (q : PulseSeq), 0 < s.ticksPer10us.toNat → s.ticksPer10us.toNat % 10 = 0 →
    traceUs (repeated q (itemPass s q)) = total q) ∧
  (∀ (rate itemTickMax : Nat) (d : List Duration), rate % 10 = 0 →
    10 * ((toItems rate itemTickMax d).map (·.ticks)).sum = rate * spanUs d)

/-- Rule R164: microsecond by microsecond, the pin inside a bit-banged mark is active exactly in the first `on` of each cycle of
`on + off`, the last cycle cut; with no carrier it is active throughout. With `on = 0` and `off` not 0, where U4 says to refuse a
claim about the waveform, the model's `carrierWave` is as the pseudocode computes it (assumption 12): that case is no claim about
hardware. -/
def Obligations.CarrierWaveByMicrosecond : Prop :=
  ∀ on off d : Nat,
    (carrierWave on off d).flatMap (fun sp => List.replicate sp.len sp.level) =
      (List.range d).map fun t => decide ((on = 0 ∧ off = 0) ∨ t % (on + off) < on)

/-- Rule R182: `SW.ON` sends the stored copy as `TX.SEND` would send it from `SEQ`, and `SEQ` is neither read nor written; an
unknown handle is `InvalidArgument`. -/
def Obligations.SwitchOnSendsTheStoredCopy : Prop :=
  ∀ (s : State) (handle : BitVec 16),
    (∀ slot, s.slots[handle.toNat]? = some slot →
      exec (.swOn handle) s = mapNext (fun t => { t with seq := s.seq }) (exec .txSend { s with seq := slot.seq })) ∧
    (s.engActive = false → s.nslotUsed ≤ handle.toNat → exec (.swOn handle) s = failed s 1)

/-- Rule R181: `SW.CREATE` fills the next slot with a copy of `SEQ` and returns its index; with no free slot it is
`InvalidArgument`. -/
def Obligations.SwitchCreateStoresACopy : Prop :=
  ∀ (s : State) (name : BitVec 16), s.Inv → s.engActive = false →
    (s.nslotUsed = s.cfg.nslot → exec (.swCreate name) s = failed s 1) ∧
    (s.nslotUsed ≠ s.cfg.nslot → ∃ h : BitVec 16, h.toNat = s.nslotUsed ∧
      exec (.swCreate name) s = .next { s with
        slots := s.slots ++ [{ seq := s.seq, name := name }], status := 0, result := some (.handle h) })

/-- Rule R183: `SW.OFF` changes nothing but `STATUS`. -/
def Obligations.SwitchOffDoesNothing : Prop :=
  ∀ (s : State) (handle : BitVec 16), s.engActive = false →
    (handle.toNat < s.nslotUsed → exec (.swOff handle) s = .next { s with status := 0, result := none }) ∧
    (s.nslotUsed ≤ handle.toNat → exec (.swOff handle) s = failed s 1)

/-- Rule R201: `RX.SETUP`, once. -/
def Obligations.RxSetupOnce : Prop :=
  ∀ (s : State) (pin : BitVec 16), s.engActive = false →
    (s.rxReady = true → exec (.rxSetup pin) s = failed s 1) ∧
    (s.rxReady = false → exec (.rxSetup pin) s =
      .next { s with rxPin := pin, rxState := .idle, capBuf := [], rxReady := true, status := 0, result := none })

/-- Rule R202: `RX.REG` appends exactly the decoders that pass every check, and returns the index; every other registration is
`InvalidArgument`, that of a header whose `A[6:4]` is not 0 too. -/
def Obligations.RegisterChecksThenAppends : Prop :=
  (∀ (s : State) (w w1 w2 : Word) (ws : List Word), s.engActive = false → s.stream = w :: w1 :: w2 :: ws →
    w.toNat / 2 ^ 24 = 0x21 → w.toNat / 2 ^ 20 % 8 ≠ 0 →
    step s = .next { s with stream := ws, status := 1, result := none }) ∧
  ∀ (s : State) (mode : DecMode) (code : BitVec 4) (nbits : BitVec 16) (expAddress expData : Word),
    s.Inv → s.engActive = false →
    let ok (v : Vendor) := code = vendorCode v ∧ (s.cfg.desc v).nbitsMin ≤ nbits.toNat ∧
      nbits.toNat ≤ (s.cfg.desc v).nbitsMax ∧
      (mode = .exact → expAddress.toNat < 2 ^ (s.cfg.desc v).addrBits ∧
        expData.toNat < 2 ^ (nbits.toNat - (s.cfg.desc v).addrBits)) ∧
      s.ndecUsed ≠ s.cfg.ndec
    (∀ v, ok v → ∃ j : BitVec 16, j.toNat = s.ndecUsed ∧
      exec (.rxReg mode code nbits expAddress expData) s = .next { s with
        dec := s.dec ++ [{ vendor := v, nbits := nbits, mode := mode, expAddress := expAddress, expData := expData }],
        status := 0, result := some (.index j) }) ∧
    ((∀ v, ¬ok v) → exec (.rxReg mode code nbits expAddress expData) s = failed s 1)

/-- Rules R204 to R207, R209: an edge in each receiver state; time differences are mod 2^32. With the receiver not set up or
interrupts off it is no step (rules R108, R203). -/
def Obligations.EdgeByReceiverState : Prop :=
  (∀ (s : State) (level : Level) (t : Word), s.rxReady = false ∨ s.irqEn = false →
    exec (.evEdge level t) s = .refused .edgeNotEnabled) ∧
  ∀ (s : State) (level : Level) (t : Word), s.rxReady = true → s.irqEn = true →
    let gap := (t.toNat + 2 ^ 32 - s.lastEdge.toNat) % 2 ^ 32
    (s.rxState = .idle → level = true →
      exec (.evEdge level t) s = .next { s with lastEdge := t, rxState := .capturing }) ∧
    (s.rxState = .idle → level = false → exec (.evEdge level t) s = .next s) ∧
    (s.rxState = .capturing → gap > s.cfg.idleUs → ∃ g : BitVec 32, g.toNat = (s.gen.toNat + 1) % 2 ^ 32 ∧
      exec (.evEdge level t) s = .next { s with rxState := .done, gen := g }) ∧
    (s.rxState = .capturing → gap ≤ s.cfg.idleUs → s.capLen < s.cfg.capCapacity →
      exec (.evEdge level t) s = .next { s with capBuf := s.capBuf ++ [BitVec.ofNat 32 gap], lastEdge := t }) ∧
    (s.rxState = .capturing → gap ≤ s.cfg.idleUs → s.cfg.capCapacity ≤ s.capLen →
      exec (.evEdge level t) s = .next { s with lastEdge := t }) ∧
    (s.rxState = .done → exec (.evEdge level t) s = .next s)

/-- Rule R208: the idle time-out, enabled exactly when the gap exceeds the threshold during a capture. -/
def Obligations.IdleTimeoutCompletesTheCapture : Prop :=
  ∀ (s : State) (t : Word),
    let due := s.rxReady = true ∧ s.irqEn = true ∧ s.rxState = .capturing ∧
      (t.toNat + 2 ^ 32 - s.lastEdge.toNat) % 2 ^ 32 > s.cfg.idleUs
    (due → ∃ g : BitVec 32, g.toNat = (s.gen.toNat + 1) % 2 ^ 32 ∧
      exec (.evIdle t) s = .next { s with rxState := .done, gen := g }) ∧
    (¬due → exec (.evIdle t) s = .refused .idleNotEnabled)

/-- Rules R210, R211, R212: a dispatch runs every registered decoder in order on the capture, logs one record and clears the
buffer; with nothing captured it does nothing. -/
def Obligations.DispatchRunsEveryDecoder : Prop :=
  ∀ s : State, s.engActive = false →
    (s.rxState ≠ .done →
      exec .rxDispatch s = .next { s with status := 0, result := some (.dispatched false) }) ∧
    (s.rxState = .done → ∃ outcomes : List DecOutcome,
      exec .rxDispatch s = .next { s with
        rxLog := s.rxLog ++ [{ gen := s.gen, outcomes := outcomes }], capBuf := [], rxState := .idle,
        status := 0, result := some (.dispatched true) } ∧
      outcomes.length = s.ndecUsed ∧
      ∀ (j : Nat) (e : DecEntry), s.dec[j]? = some e →
        let r := decodeFrame s.cfg.tolPercent (s.cfg.desc e.vendor) e.nbits.toNat s.capBuf
        (e.mode = .exact → r = some (e.expAddress.toNat, e.expData.toNat) → outcomes[j]? = some .matched) ∧
        (e.mode = .exact → r ≠ some (e.expAddress.toNat, e.expData.toNat) → outcomes[j]? = some .noMatch) ∧
        (e.mode = .dump → ∀ a d, r = some (a, d) → outcomes[j]? = some (.decoded e.vendor a d e.nbits)) ∧
        (e.mode = .dump → r = none → outcomes[j]? = some (.raw s.capBuf)))

/-- Rule R215: the edges of an on-time signal, none of whose durations exceeds the threshold, leave its magnitudes in the
capture buffer; the time-out then completes the capture. -/
def Obligations.OnTimeFrameIsCaptured : Prop :=
  ∀ (s : State) (F : List Duration) (t0 t1 : Word), s.rxReady = true → s.irqEn = true → s.rxState = .idle →
    s.capBuf = [] → F.length ≤ s.cfg.capCapacity → (∀ e ∈ F, e.toInt.natAbs ≤ s.cfg.idleUs) →
    let last := t0 + BitVec.ofNat 32 (spanUs F)
    let captured := { s with rxState := .capturing, capBuf := captureOf F, lastEdge := last }
    execAll (frameEdges t0 F) s = .next captured ∧
    ((t1.toNat + 2 ^ 32 - last.toNat) % 2 ^ 32 > s.cfg.idleUs →
      execAll (frameEdges t0 F ++ [.evIdle t1]) s = .next { captured with rxState := .done, gen := s.gen + 1 })

/-- Rules R137, R211, R215: a command encoded by the block, received on time and dispatched, is reported by every decoder of its
protocol and bit count: a match exactly by those that expect its fields. -/
def Obligations.EncodedCommandIsReported : Prop :=
  ∀ (s : State) (v : Vendor) (nbits address data : Nat) (F : List Duration) (t0 t1 : Word),
    s.Inv → s.rxReady = true → s.rxState = .idle → s.engActive = false →
    (s.cfg.desc v).bitZeroUs ≠ (s.cfg.desc v).bitOneUs →
    encodeFrame (s.cfg.desc v) address data nbits = some F → (∀ e ∈ F, e.toInt.natAbs ≤ s.cfg.idleUs) →
    (t1.toNat + 2 ^ 32 - (t0 + BitVec.ofNat 32 (spanUs F)).toNat) % 2 ^ 32 > s.cfg.idleUs →
    ∃ t outcomes, execAll (frameEdges t0 F ++ [.evIdle t1, .rxDispatch]) s = .next t ∧
      t.result = some (.dispatched true) ∧ t.rxState = .idle ∧ t.capBuf = [] ∧
      t.rxLog = s.rxLog ++ [{ gen := s.gen + 1, outcomes := outcomes }] ∧
      ∀ (j : Nat) (e : DecEntry), s.dec[j]? = some e → e.vendor = v → e.nbits.toNat = nbits →
        (e.mode = .exact → e.expAddress.toNat = address ∧ e.expData.toNat = data → outcomes[j]? = some .matched) ∧
        (e.mode = .exact → ¬(e.expAddress.toNat = address ∧ e.expData.toNat = data) → outcomes[j]? = some .noMatch) ∧
        (e.mode = .dump → outcomes[j]? = some (.decoded v address data e.nbits))

/-- Rule R274: an edge with a gap above the threshold and the time-out, in either order, give the same receiver state. -/
def Obligations.EdgeAndTimeoutAgree : Prop :=
  ∀ (s : State) (level : Level) (t : Word), s.rxReady = true → s.irqEn = true → s.rxState = .capturing →
    (t.toNat + 2 ^ 32 - s.lastEdge.toNat) % 2 ^ 32 > s.cfg.idleUs →
    ∃ u, exec (.evEdge level t) s = .next u ∧ exec (.evIdle t) s = .next u ∧ exec (.evEdge level t) u = .next u ∧
      u.rxState = .done ∧ u.gen = s.gen + 1

/-- Rules R263, R266: which commands raise `PeripheralBusy` and `NotSetup`, and when. -/
def Obligations.BusyAndNotSetupHaveTheirCauses : Prop :=
  ∀ (i : Instr) (s t : State), s.Inv → agentOf i = .host → exec i s = .next t →
    (t.status = 2 → s.cfg.backend = .peripheral ∧ s.txBusy = true ∧
      ((∃ q, Sends i s q ∧ q.durations ≠ []) ∨ i.header.opc = .ok .txConfig)) ∧
    (t.status = 3 → s.txReady = false ∧ ∃ q, Sends i s q)

/-- Rules R234, R235, R236, with R87's weights: when `decode` answers fields, and which. In every other case it answers none. -/
def Obligations.DecodeAnswersExactly : Prop :=
  ∀ (tolPercent : Nat) (P : Descriptor) (nbits : Nat) (x : List (BitVec 32)) (address data : Nat),
    decodeFrame tolPercent P nbits x = some (address, data) ↔
      2 + 2 * nbits + (if P.hasStop then 1 else 0) ≤ x.length ∧
      (∃ u, x[0]? = some u ∧ within tolPercent u.toNat P.hdrMarkUs = true) ∧
      (∃ u, x[1]? = some u ∧ within tolPercent u.toNat P.hdrSpaceUs = true) ∧
      ∃ bit : Nat → Bool,
        (∀ k < nbits, ∃ u, x[if P.bitInMark then 2 + 2 * k else 3 + 2 * k]? = some u ∧
          classify tolPercent u.toNat P = some (bit k)) ∧
        let word := ((List.range nbits).map fun k =>
          if bit k then (if P.msbFirst then 2 ^ (nbits - 1 - k) else 2 ^ k) else 0).sum
        address = word / 2 ^ (nbits - P.addrBits) ∧ data = word % 2 ^ (nbits - P.addrBits)

/-- Rules R36, R94: what two observers compare of a trace (empty spans dropped, neighbours of one level and one unit merged) lasts
as long as the trace, holds no empty span and has no such neighbours left. -/
def Obligations.ObservedTraceLastsAsLong : Prop :=
  ∀ trace : List Span,
    traceUs (observed trace) = traceUs trace ∧ (∀ sp ∈ observed trace, sp.len ≠ 0) ∧
    ∀ (k : Nat) (a b : Span), (observed trace)[k]? = some a → (observed trace)[k + 1]? = some b →
      a.level ≠ b.level ∨ a.per10us ≠ b.per10us

end
end

