-- ==== Sys2Proof/Laws/Codec.lean ====
section
/-! SUPPORT. Headers, entries and frames: the small facts later proofs cite instead of unfolding. -/

namespace Sys2Proof

/-- A header's fields come back from its word (rule R100). -/
@[simp] theorem Header.ofWord_toWord (h : Header) : Header.ofWord h.toWord = h := by
  obtain ⟨op, a, b⟩ := h
  simp only [Header.ofWord, Header.toWord, Header.mk.injEq]
  refine ⟨?_, ?_, ?_⟩ <;> apply BitVec.eq_of_getLsbD_eq <;> intro i hi
  · simp only [BitVec.getLsbD_extractLsb', hi, decide_true, Bool.true_and, BitVec.getLsbD_append]
    simp [show ¬ (24 + i < 16) by omega, show ¬ (24 + i - 16 < 8) by omega, show 24 + i - 16 - 8 = i by omega]
  · simp only [BitVec.getLsbD_extractLsb', hi, decide_true, Bool.true_and, BitVec.getLsbD_append]
    simp [show ¬ (16 + i < 16) by omega, hi]
  · simp only [BitVec.getLsbD_extractLsb', hi, decide_true, Bool.true_and, BitVec.getLsbD_append]
    simp [hi]

/-- A header word is the word of its fields (rule R100). -/
@[simp] theorem Header.toWord_ofWord (w : Word) : (Header.ofWord w).toWord = w := by
  apply BitVec.eq_of_getLsbD_eq
  intro i hi
  simp only [Header.ofWord, Header.toWord, BitVec.getLsbD_append, BitVec.getLsbD_extractLsb']
  by_cases h1 : i < 16
  · simp [h1]
  · by_cases h2 : i - 16 < 8
    · simp [h1, h2, show 16 + (i - 16) = i by omega]
    · simp [h1, h2, show i - 16 - 8 < 8 by omega, show 24 + (i - 16 - 8) = i by omega]

namespace Machine

/-- The value of `mark(d)` (rule R80). -/
theorem mark_toInt {d : Nat} (h : d < 2 ^ 31) : (mark d).toInt = d := by
  rw [mark, BitVec.toInt_ofNat']
  simp only [Int.bmod]
  omega

/-- The value of `space(d)` (rule R80). -/
theorem space_toInt {d : Nat} (h : d < 2 ^ 31) : (space d).toInt = -(d : Int) := by
  rw [space, BitVec.toInt_ofInt]
  simp only [Int.bmod]
  omega

/-- The magnitude of `mark(d)` (rule R80). -/
@[simp] theorem usOf_mark {d : Nat} (h : d < 2 ^ 31) : usOf (mark d) = d := by simp [usOf, mark_toInt h]

/-- The magnitude of `space(d)` (rule R80). -/
@[simp] theorem usOf_space {d : Nat} (h : d < 2 ^ 31) : usOf (space d) = d := by simp [usOf, space_toInt h]

/-- A mark is active (rule R80). -/
theorem levelOf_mark {d : Nat} (h : usLegal d) : levelOf (mark d) = true := by
  simp [levelOf, mark_toInt h.2]; exact h.1

/-- A space is inactive (rule R80). -/
theorem levelOf_space {d : Nat} (h : usLegal d) : levelOf (space d) = false := by
  simp [levelOf, space_toInt h.2]

/-- What makes an entry legal, by its value (rule R80). -/
theorem entryLegal_iff (e : Duration) : entryLegal e = true ↔ e.toInt ≠ 0 ∧ e.toInt ≠ -2 ^ 31 := by
  have h0 : e ≠ 0 ↔ e.toInt ≠ 0 := by rw [ne_eq, ne_eq, ← BitVec.toInt_inj]; simp
  have h1 : e ≠ 0x80000000#32 ↔ e.toInt ≠ -2 ^ 31 := by rw [ne_eq, ne_eq, ← BitVec.toInt_inj]; simp
  simp only [entryLegal, Bool.and_eq_true, decide_eq_true_eq, h0, h1]

/-- A mark is a legal entry. -/
theorem entryLegal_mark {d : Nat} (h : usLegal d) : entryLegal (mark d) = true := by
  rw [entryLegal_iff, mark_toInt h.2]; have := h.1; omega

/-- A space is a legal entry. -/
theorem entryLegal_space {d : Nat} (h : usLegal d) : entryLegal (space d) = true := by
  rw [entryLegal_iff, space_toInt h.2]; have := h.1; have := h.2; omega

/-- A bit takes two entries (rule R85). -/
@[simp] theorem bitPair_length (P : Descriptor) (b : Bool) : (bitPair P b).length = 2 := by
  unfold bitPair; split <;> rfl

/-- The first entry of a bit. -/
def bitMark (P : Descriptor) (b : Bool) : Duration := if P.bitInMark then mark (bitUs P b) else mark P.bitFixedUs

/-- The second entry of a bit. -/
def bitSpace (P : Descriptor) (b : Bool) : Duration := if P.bitInMark then space P.bitFixedUs else space (bitUs P b)

/-- A bit is a mark, then a space (rule R85). -/
theorem bitPair_eq (P : Descriptor) (b : Bool) : bitPair P b = [bitMark P b, bitSpace P b] := by
  unfold bitPair bitMark bitSpace; split <;> rfl

/-- The bits of a frame take two entries each (rule R85). -/
@[simp] theorem bitEntries_length (P : Descriptor) (f : Nat → Bool) (n : Nat) :
    ((List.range n).flatMap fun k => bitPair P (f k)).length = 2 * n := by
  simp [List.length_flatMap, Nat.mul_comm]

/-- The length of a frame (rules R85, R91). -/
theorem frameOf_length (P : Descriptor) (word nbits : Nat) : (frameOf P word nbits).length = need P nbits := by
  cases h : P.hasStop <;> simp [frameOf, need, stopEntries, h] <;> omega

/-- The entries of bit `k` within the bits of a frame (rule R85). -/
theorem bitEntries_getElem? (P : Descriptor) (f : Nat → Bool) {n k : Nat} (hk : k < n) :
    ((List.range n).flatMap fun k => bitPair P (f k))[2 * k]? = some (bitMark P (f k)) ∧
      ((List.range n).flatMap fun k => bitPair P (f k))[2 * k + 1]? = some (bitSpace P (f k)) := by
  induction n with
  | zero => omega
  | succ n ih =>
    rw [List.range_succ, List.flatMap_append]
    have hl := bitEntries_length P f n
    by_cases hkn : k < n
    · rw [List.getElem?_append_left (by omega), List.getElem?_append_left (by omega)]
      exact ih hkn
    · obtain rfl : k = n := by omega
      rw [List.getElem?_append_right (by omega), List.getElem?_append_right (by omega), hl]
      simp [bitPair_eq]

/-- The header of a frame (rule R85). -/
theorem frameOf_header (P : Descriptor) (word nbits : Nat) :
    (frameOf P word nbits)[0]? = some (mark P.hdrMarkUs) ∧ (frameOf P word nbits)[1]? = some (space P.hdrSpaceUs) := by
  simp [frameOf]

/-- A frame, its header entries split off (rule R85). -/
theorem frameOf_eq (P : Descriptor) (word nbits : Nat) :
    frameOf P word nbits = mark P.hdrMarkUs :: space P.hdrSpaceUs ::
      (((List.range nbits).flatMap fun k => bitPair P (sentBit P word nbits k)) ++ stopEntries P) := by
  simp [frameOf]

/-- Bit `k` of a frame: entries `2 + 2k` and `3 + 2k` (rule R85). -/
theorem frameOf_bit (P : Descriptor) (word : Nat) {nbits k : Nat} (hk : k < nbits) :
    (frameOf P word nbits)[2 + 2 * k]? = some (bitMark P (sentBit P word nbits k)) ∧
      (frameOf P word nbits)[3 + 2 * k]? = some (bitSpace P (sentBit P word nbits k)) := by
  have hb := bitEntries_getElem? P (sentBit P word nbits) hk
  have hl := bitEntries_length P (sentBit P word nbits) nbits
  rw [frameOf_eq, show 2 + 2 * k = 2 * k + 1 + 1 by omega, show 3 + 2 * k = 2 * k + 1 + 1 + 1 by omega]
  simp only [List.getElem?_cons_succ]
  rw [List.getElem?_append_left (by omega), List.getElem?_append_left (by omega)]
  exact hb

/-- The stop mark of a frame (rule R85). -/
theorem frameOf_stop (P : Descriptor) (word nbits : Nat) (h : P.hasStop = true) :
    (frameOf P word nbits)[2 + 2 * nbits]? = some (mark P.stopMarkUs) := by
  have hl := bitEntries_length P (sentBit P word nbits) nbits
  rw [frameOf_eq, show 2 + 2 * nbits = 2 * nbits + 1 + 1 by omega]
  simp only [List.getElem?_cons_succ]
  rw [List.getElem?_append_right (by omega), hl]
  simp [stopEntries, h]

/-- A successful encode: its checks, and the frame it gives (rule R120). -/
theorem encodeFrame_some {P : Descriptor} {a d n : Nat} {F : List Duration} :
    encodeFrame P a d n = some F ↔
      (P.nbitsMin ≤ n ∧ n ≤ P.nbitsMax) ∧ a < 2 ^ P.addrBits ∧ d < 2 ^ dataBits P n ∧
        F = frameOf P (frameWord P n a d) n := by
  unfold encodeFrame
  by_cases h1 : nbitsLegal P n = true <;> by_cases h2 : addressFits P a = true <;> by_cases h3 : dataFits P n d = true <;>
    simp only [h1, h2, h3] <;>
    simp only [nbitsLegal, addressFits, dataFits, Bool.and_eq_true, decide_eq_true_eq] at h1 h2 h3 <;>
    simp [h1, h2, h3, eq_comm]

/-- A reference duration lies inside its own window (rule R137). -/
theorem within_self (tol ref : Nat) : within tol ref ref = true := by
  simp only [within, Bool.and_eq_true, decide_eq_true_eq]
  exact ⟨Nat.mul_le_mul_right _ (by omega), Nat.mul_le_mul_right _ (by omega)⟩

/-- The window test as two bounds (rule R231). -/
theorem within_iff (tol d ref : Nat) :
    within tol d ref = true ↔ (100 - tol) * ref ≤ 100 * d ∧ 100 * d ≤ (100 + tol) * ref := by
  simp [within]

/-- A bit's two lengths are legal durations (rule R31). -/
theorem bitUs_legal {P : Descriptor} (hP : P.Valid) (b : Bool) : usLegal (bitUs P b) := by
  cases b
  · exact hP.bitZero
  · exact hP.bitOne

/-- A bit's first entry is a legal mark (rule R85). -/
theorem bitMark_legal {P : Descriptor} (hP : P.Valid) (b : Bool) :
    levelOf (bitMark P b) = true ∧ entryLegal (bitMark P b) = true := by
  unfold bitMark; split
  · exact ⟨levelOf_mark (bitUs_legal hP b), entryLegal_mark (bitUs_legal hP b)⟩
  · exact ⟨levelOf_mark hP.bitFixed, entryLegal_mark hP.bitFixed⟩

/-- A bit's second entry is a legal space (rule R85). -/
theorem bitSpace_legal {P : Descriptor} (hP : P.Valid) (b : Bool) :
    levelOf (bitSpace P b) = false ∧ entryLegal (bitSpace P b) = true := by
  unfold bitSpace; split
  · exact ⟨levelOf_space hP.bitFixed, entryLegal_space hP.bitFixed⟩
  · exact ⟨levelOf_space (bitUs_legal hP b), entryLegal_space (bitUs_legal hP b)⟩

/-- A mark and a space before an alternating list that begins with a mark, if with anything. -/
theorem alternates_pair {m e : Duration} {l : List Duration} (hm : levelOf m = true ∧ entryLegal m = true)
    (he : levelOf e = false ∧ entryLegal e = true) (hl : alternates l = true) (hx : ∀ x ∈ l.head?, levelOf x = true) :
    alternates (m :: e :: l) = true := by
  cases l with
  | nil => simp [alternates, hm, he]
  | cons x l => have := hx x (by simp); simp [alternates, hm, he, this, hl]

/-- The bits `readBits` reads are those whose durations classify, each with its weight (rules R87, R236). -/
theorem readBits_some (tol : Nat) (P : Descriptor) (nbits : Nat) (x : List (BitVec 32)) (m word : Nat) :
    readBits tol P nbits x m = some word ↔ ∃ bit : Nat → Bool,
      (∀ k < m, ∃ u, x[bitIndex P k]? = some u ∧ classify tol u.toNat P = some (bit k)) ∧
      word = ((List.range m).map fun k => if bit k then bitWeight P nbits k else 0).sum := by
  induction m generalizing word with
  | zero =>
    refine ⟨fun h => ⟨fun _ => false, fun k hk => absurd hk (by omega), ?_⟩, fun ⟨_, _, h⟩ => ?_⟩
    · injection h with h; exact h.symm
    · rw [h]; rfl
  | succ m ih =>
    have sum_succ (f : Nat → Nat) : ((List.range (m + 1)).map f).sum = ((List.range m).map f).sum + f m := by
      simp [List.range_succ]
    constructor
    · intro h
      simp only [readBits] at h
      split at h
      · cases h
      next w hw =>
      split at h
      · cases h
      next v hv =>
      split at h
      · cases h
      next b hb =>
      obtain ⟨bit, h1, h2⟩ := (ih w).1 hw
      refine ⟨fun k => if k = m then b else bit k, fun k hk => ?_, ?_⟩
      · by_cases hkm : k = m
        · subst hkm; exact ⟨v, hv, by simpa using hb⟩
        · simpa [hkm] using h1 k (by omega)
      · injection h with h
        rw [← h, h2, sum_succ]
        congr 1
        · congr 1; apply List.map_congr_left; intro k hk; simp at hk; simp [show k ≠ m by omega]
        · cases b <;> simp
    · rintro ⟨bit, h1, rfl⟩
      obtain ⟨u, hu, hb⟩ := h1 m (by omega)
      simp only [readBits, (ih _).2 ⟨bit, fun k hk => h1 k (by omega), rfl⟩, memRead, hu, hb]
      rw [sum_succ]
      cases bit m <;> simp

/-- The test of a header entry (rule R235). -/
theorem entryWithin_iff (tol : Nat) (x : List (BitVec 32)) (i ref : Nat) :
    entryWithin tol x i ref = true ↔ ∃ u, x[i]? = some u ∧ within tol u.toNat ref = true := by
  unfold entryWithin memRead; split <;> simp_all

end Machine

end Sys2Proof
end

