-- ==== Sys2Proof/Laws/Inv.lean ====
section
/-! SUPPORT. The invariant of a concrete state, by evaluation, and the parameters of this spec as a legal configuration. -/

namespace Sys2Proof.Machine

/-- A descriptor's field types (rule R31), as a test. -/
def descCheck (P : Descriptor) : Bool :=
  decide (usLegal P.hdrMarkUs ∧ usLegal P.hdrSpaceUs ∧ usLegal P.bitFixedUs ∧ usLegal P.bitZeroUs ∧ usLegal P.bitOneUs ∧
    usLegal P.stopMarkUs ∧ P.addrBits ≤ 32 ∧ P.addrBits < P.nbitsMin ∧ P.nbitsMin ≤ P.nbitsMax ∧
    P.nbitsMax ≤ P.addrBits + 32 ∧ P.nbitsMax ≤ 48)

/-- A descriptor that passes the test is legal. -/
theorem desc_valid_of_check {P : Descriptor} (h : descCheck P = true) : P.Valid := by
  obtain ⟨h1, h2, h3, h4, h5, h6, h7, h8, h9, h10, h11⟩ := of_decide_eq_true h
  exact ⟨h1, h2, h3, h4, h5, h6, h7, h8, h9, h10, h11⟩

/-- The parameters' ranges (rule R6), as a test. -/
def configCheck (c : Config) : Bool :=
  decide (c.tolPercent ≤ 99 ∧ 99 ≤ c.capCapacity ∧ 99 ≤ c.seqCapacity ∧ c.seqCapacity ≤ 65536 ∧ c.nslot ≤ 65536 ∧
    c.ndec ≤ 65536 ∧ 1 ≤ c.clockDivider.toNat ∧ c.baseClockHz / (c.clockDivider.toNat * 100000) < 2 ^ 32 ∧
    1 ≤ c.itemTickMax ∧ (1 ≤ c.dutyReset.toNat ∧ c.dutyReset.toNat ≤ 100) ∧
    descCheck c.nec = true ∧ descCheck c.lg = true ∧ descCheck c.panasonic = true)

/-- A configuration that passes the test is legal. -/
theorem config_valid_of_check {c : Config} (h : configCheck c = true) : c.Valid := by
  obtain ⟨h1, h2, h3, h4, h5, h6, h7, h8, h9, h10, h11, h12, h13⟩ := of_decide_eq_true h
  exact ⟨h1, h2, h3, h4, h5, h6, h7, h8, h9, h10,
    desc_valid_of_check h11, desc_valid_of_check h12, desc_valid_of_check h13⟩

/-- A sequence value is well-formed (rules R23, R129), as a test. -/
def seqCheck (q : PulseSeq) (seqCapacity : Nat) : Bool :=
  decide (wfDurations seqCapacity q.durations = true ∧ 1 ≤ q.repeatCount.toNat)

/-- The invariant but for the histories and the capture, as a test. -/
def invCheckTx (s : State) : Bool :=
  decide (configCheck s.cfg = true ∧ seqCheck s.seq s.cfg.seqCapacity = true ∧
    (∀ x ∈ s.slots, seqCheck x.seq s.cfg.seqCapacity = true) ∧ seqCheck s.engSeq s.cfg.seqCapacity = true ∧
    s.slots.length ≤ s.cfg.nslot ∧ s.status.toNat ≤ 3 ∧ (1 ≤ s.carrierDuty.toNat ∧ s.carrierDuty.toNat ≤ 100) ∧
    s.curCarrier.all (fun f => decide (s.onUs.toNat = carrierOn f.toNat s.carrierDuty.toNat ∧
      s.offUs.toNat = carrierOff f.toNat s.carrierDuty.toNat)) = true ∧
    s.clockDivider = s.cfg.clockDivider ∧
    (s.txReady = true → s.cfg.backend = .peripheral → s.ticksPer10us.toNat = tickRate s ∧ 1 ≤ s.ticksPer10us.toNat) ∧
    s.channel = 0 ∧ (s.txBusy = true → s.txPos < s.itemq.length) ∧
    (s.txBusy = false → s.itemq = [] ∧ s.txPos = 0 ∧ s.txOut = false) ∧
    (∀ x ∈ s.itemq, x.Legal s.cfg.itemTickMax) ∧
    (s.txBusy = true → s.txReady = true ∧ s.cfg.backend = .peripheral) ∧
    (s.engActive = true → s.txReady = true ∧ s.cfg.backend = .peripheral ∧ 1 ≤ s.engRep.toNat ∧
      s.engRep.toNat < s.engSeq.repeatCount.toNat) ∧
    s.irqEn = true)

/-- The invariant of the histories and the capture, as a test. -/
def invCheckRx (s : State) : Bool :=
  decide ((∀ sp ∈ s.txTrace, 1 ≤ sp.per10us) ∧ (s.rxState = .idle → s.capBuf = []) ∧
    (s.rxReady = false → s.rxState = .idle) ∧ s.capBuf.length ≤ s.cfg.capCapacity ∧
    s.capBuf.all (fun g => decide (g.toNat ≤ s.cfg.idleUs)) = true ∧ s.dec.length ≤ s.cfg.ndec ∧
    (∀ e ∈ s.dec, nbitsLegal (s.cfg.desc e.vendor) e.nbits.toNat = true ∧
      expectedFits (s.cfg.desc e.vendor) e.mode e.nbits.toNat e.expAddress e.expData = true) ∧
    s.gen.toNat = (s.rxLog.length + (if s.rxState = .done then 1 else 0)) % 2 ^ 32)

/-- A sequence that passes the test is legal. -/
theorem seq_legal_of_check {q : PulseSeq} {n : Nat} (h : seqCheck q n = true) : q.Legal n := by
  obtain ⟨h1, h2⟩ := of_decide_eq_true h
  exact ⟨h1, h2⟩

/-- A state that passes both tests meets the invariant. -/
theorem inv_of_check {s : State} (ht : invCheckTx s = true) (hr : invCheckRx s = true) : s.Inv := by
  obtain ⟨h1, h2, h3, h4, h5, h6, h7, h8, h9, h10, h11, h12, h13, h14, h15, h16, h17⟩ := of_decide_eq_true ht
  obtain ⟨g1, g2, g3, g4, g5, g6, g7, g8⟩ := of_decide_eq_true hr
  exact ⟨config_valid_of_check h1, seq_legal_of_check h2, fun x hx => seq_legal_of_check (h3 x hx), seq_legal_of_check h4,
    h5, h6, h7, fun f hf => by simpa [Option.mem_def.1 hf] using h8, h9, h10, h11, h12, h13, h14, h15, h16, h17, g1, g2, g3, g4,
    fun g hg => of_decide_eq_true (List.all_eq_true.1 g5 g hg), g6,
    fun e he => ⟨(g7 e he).1, (g7 e he).2⟩, g8⟩

end Sys2Proof.Machine
end

