-- ==== Sys2Proof/Laws/State.lean ====
section
/-! SUPPORT. What each named update of the state leaves in each field. -/

namespace Sys2Proof.Machine

/-! The fields after completing a command (`State.finish`). -/

@[simp] theorem State.finish_cfg (s : State) (v : Option CmdResult) : (s.finish v).cfg = s.cfg := rfl
@[simp] theorem State.finish_stream (s : State) (v : Option CmdResult) : (s.finish v).stream = s.stream := rfl
@[simp] theorem State.finish_seq (s : State) (v : Option CmdResult) : (s.finish v).seq = s.seq := rfl
@[simp] theorem State.finish_slots (s : State) (v : Option CmdResult) : (s.finish v).slots = s.slots := rfl
@[simp] theorem State.finish_status (s : State) (v : Option CmdResult) : (s.finish v).status = statusOk := rfl
@[simp] theorem State.finish_result (s : State) (v : Option CmdResult) : (s.finish v).result = v := rfl
@[simp] theorem State.finish_txPin (s : State) (v : Option CmdResult) : (s.finish v).txPin = s.txPin := rfl
@[simp] theorem State.finish_carrierDuty (s : State) (v : Option CmdResult) : (s.finish v).carrierDuty = s.carrierDuty := rfl
@[simp] theorem State.finish_txReady (s : State) (v : Option CmdResult) : (s.finish v).txReady = s.txReady := rfl
@[simp] theorem State.finish_curCarrier (s : State) (v : Option CmdResult) : (s.finish v).curCarrier = s.curCarrier := rfl
@[simp] theorem State.finish_reconfCount (s : State) (v : Option CmdResult) : (s.finish v).reconfCount = s.reconfCount := rfl
@[simp] theorem State.finish_onUs (s : State) (v : Option CmdResult) : (s.finish v).onUs = s.onUs := rfl
@[simp] theorem State.finish_offUs (s : State) (v : Option CmdResult) : (s.finish v).offUs = s.offUs := rfl
@[simp] theorem State.finish_clockDivider (s : State) (v : Option CmdResult) : (s.finish v).clockDivider = s.clockDivider := rfl
@[simp] theorem State.finish_ticksPer10us (s : State) (v : Option CmdResult) : (s.finish v).ticksPer10us = s.ticksPer10us := rfl
@[simp] theorem State.finish_channel (s : State) (v : Option CmdResult) : (s.finish v).channel = s.channel := rfl
@[simp] theorem State.finish_itemq (s : State) (v : Option CmdResult) : (s.finish v).itemq = s.itemq := rfl
@[simp] theorem State.finish_txPos (s : State) (v : Option CmdResult) : (s.finish v).txPos = s.txPos := rfl
@[simp] theorem State.finish_txBusy (s : State) (v : Option CmdResult) : (s.finish v).txBusy = s.txBusy := rfl
@[simp] theorem State.finish_engActive (s : State) (v : Option CmdResult) : (s.finish v).engActive = s.engActive := rfl
@[simp] theorem State.finish_engSeq (s : State) (v : Option CmdResult) : (s.finish v).engSeq = s.engSeq := rfl
@[simp] theorem State.finish_engRep (s : State) (v : Option CmdResult) : (s.finish v).engRep = s.engRep := rfl
@[simp] theorem State.finish_irqEn (s : State) (v : Option CmdResult) : (s.finish v).irqEn = s.irqEn := rfl
@[simp] theorem State.finish_txOut (s : State) (v : Option CmdResult) : (s.finish v).txOut = s.txOut := rfl
@[simp] theorem State.finish_txTrace (s : State) (v : Option CmdResult) : (s.finish v).txTrace = s.txTrace := rfl
@[simp] theorem State.finish_rxPin (s : State) (v : Option CmdResult) : (s.finish v).rxPin = s.rxPin := rfl
@[simp] theorem State.finish_rxReady (s : State) (v : Option CmdResult) : (s.finish v).rxReady = s.rxReady := rfl
@[simp] theorem State.finish_rxState (s : State) (v : Option CmdResult) : (s.finish v).rxState = s.rxState := rfl
@[simp] theorem State.finish_capBuf (s : State) (v : Option CmdResult) : (s.finish v).capBuf = s.capBuf := rfl
@[simp] theorem State.finish_lastEdge (s : State) (v : Option CmdResult) : (s.finish v).lastEdge = s.lastEdge := rfl
@[simp] theorem State.finish_gen (s : State) (v : Option CmdResult) : (s.finish v).gen = s.gen := rfl
@[simp] theorem State.finish_dec (s : State) (v : Option CmdResult) : (s.finish v).dec = s.dec := rfl
@[simp] theorem State.finish_rxLog (s : State) (v : Option CmdResult) : (s.finish v).rxLog = s.rxLog := rfl

/-! The fields after the words a command took leaving the stream (`State.consume`). -/

@[simp] theorem State.consume_cfg (s : State) (rest : List Word) : (s.consume rest).cfg = s.cfg := rfl
@[simp] theorem State.consume_stream (s : State) (rest : List Word) : (s.consume rest).stream = rest := rfl
@[simp] theorem State.consume_seq (s : State) (rest : List Word) : (s.consume rest).seq = s.seq := rfl
@[simp] theorem State.consume_slots (s : State) (rest : List Word) : (s.consume rest).slots = s.slots := rfl
@[simp] theorem State.consume_status (s : State) (rest : List Word) : (s.consume rest).status = s.status := rfl
@[simp] theorem State.consume_result (s : State) (rest : List Word) : (s.consume rest).result = s.result := rfl
@[simp] theorem State.consume_txPin (s : State) (rest : List Word) : (s.consume rest).txPin = s.txPin := rfl
@[simp] theorem State.consume_carrierDuty (s : State) (rest : List Word) : (s.consume rest).carrierDuty = s.carrierDuty := rfl
@[simp] theorem State.consume_txReady (s : State) (rest : List Word) : (s.consume rest).txReady = s.txReady := rfl
@[simp] theorem State.consume_curCarrier (s : State) (rest : List Word) : (s.consume rest).curCarrier = s.curCarrier := rfl
@[simp] theorem State.consume_reconfCount (s : State) (rest : List Word) : (s.consume rest).reconfCount = s.reconfCount := rfl
@[simp] theorem State.consume_onUs (s : State) (rest : List Word) : (s.consume rest).onUs = s.onUs := rfl
@[simp] theorem State.consume_offUs (s : State) (rest : List Word) : (s.consume rest).offUs = s.offUs := rfl
@[simp] theorem State.consume_clockDivider (s : State) (rest : List Word) :
    (s.consume rest).clockDivider = s.clockDivider := rfl
@[simp] theorem State.consume_ticksPer10us (s : State) (rest : List Word) :
    (s.consume rest).ticksPer10us = s.ticksPer10us := rfl
@[simp] theorem State.consume_channel (s : State) (rest : List Word) : (s.consume rest).channel = s.channel := rfl
@[simp] theorem State.consume_itemq (s : State) (rest : List Word) : (s.consume rest).itemq = s.itemq := rfl
@[simp] theorem State.consume_txPos (s : State) (rest : List Word) : (s.consume rest).txPos = s.txPos := rfl
@[simp] theorem State.consume_txBusy (s : State) (rest : List Word) : (s.consume rest).txBusy = s.txBusy := rfl
@[simp] theorem State.consume_engActive (s : State) (rest : List Word) : (s.consume rest).engActive = s.engActive := rfl
@[simp] theorem State.consume_engSeq (s : State) (rest : List Word) : (s.consume rest).engSeq = s.engSeq := rfl
@[simp] theorem State.consume_engRep (s : State) (rest : List Word) : (s.consume rest).engRep = s.engRep := rfl
@[simp] theorem State.consume_irqEn (s : State) (rest : List Word) : (s.consume rest).irqEn = s.irqEn := rfl
@[simp] theorem State.consume_txOut (s : State) (rest : List Word) : (s.consume rest).txOut = s.txOut := rfl
@[simp] theorem State.consume_txTrace (s : State) (rest : List Word) : (s.consume rest).txTrace = s.txTrace := rfl
@[simp] theorem State.consume_rxPin (s : State) (rest : List Word) : (s.consume rest).rxPin = s.rxPin := rfl
@[simp] theorem State.consume_rxReady (s : State) (rest : List Word) : (s.consume rest).rxReady = s.rxReady := rfl
@[simp] theorem State.consume_rxState (s : State) (rest : List Word) : (s.consume rest).rxState = s.rxState := rfl
@[simp] theorem State.consume_capBuf (s : State) (rest : List Word) : (s.consume rest).capBuf = s.capBuf := rfl
@[simp] theorem State.consume_lastEdge (s : State) (rest : List Word) : (s.consume rest).lastEdge = s.lastEdge := rfl
@[simp] theorem State.consume_gen (s : State) (rest : List Word) : (s.consume rest).gen = s.gen := rfl
@[simp] theorem State.consume_dec (s : State) (rest : List Word) : (s.consume rest).dec = s.dec := rfl
@[simp] theorem State.consume_rxLog (s : State) (rest : List Word) : (s.consume rest).rxLog = s.rxLog := rfl

/-! The fields after emitting a span (`State.emit`). -/

@[simp] theorem State.emit_cfg (s : State) (sp : Span) : (s.emit sp).cfg = s.cfg := rfl
@[simp] theorem State.emit_stream (s : State) (sp : Span) : (s.emit sp).stream = s.stream := rfl
@[simp] theorem State.emit_seq (s : State) (sp : Span) : (s.emit sp).seq = s.seq := rfl
@[simp] theorem State.emit_slots (s : State) (sp : Span) : (s.emit sp).slots = s.slots := rfl
@[simp] theorem State.emit_status (s : State) (sp : Span) : (s.emit sp).status = s.status := rfl
@[simp] theorem State.emit_result (s : State) (sp : Span) : (s.emit sp).result = s.result := rfl
@[simp] theorem State.emit_txPin (s : State) (sp : Span) : (s.emit sp).txPin = s.txPin := rfl
@[simp] theorem State.emit_carrierDuty (s : State) (sp : Span) : (s.emit sp).carrierDuty = s.carrierDuty := rfl
@[simp] theorem State.emit_txReady (s : State) (sp : Span) : (s.emit sp).txReady = s.txReady := rfl
@[simp] theorem State.emit_curCarrier (s : State) (sp : Span) : (s.emit sp).curCarrier = s.curCarrier := rfl
@[simp] theorem State.emit_reconfCount (s : State) (sp : Span) : (s.emit sp).reconfCount = s.reconfCount := rfl
@[simp] theorem State.emit_onUs (s : State) (sp : Span) : (s.emit sp).onUs = s.onUs := rfl
@[simp] theorem State.emit_offUs (s : State) (sp : Span) : (s.emit sp).offUs = s.offUs := rfl
@[simp] theorem State.emit_clockDivider (s : State) (sp : Span) : (s.emit sp).clockDivider = s.clockDivider := rfl
@[simp] theorem State.emit_ticksPer10us (s : State) (sp : Span) : (s.emit sp).ticksPer10us = s.ticksPer10us := rfl
@[simp] theorem State.emit_channel (s : State) (sp : Span) : (s.emit sp).channel = s.channel := rfl
@[simp] theorem State.emit_itemq (s : State) (sp : Span) : (s.emit sp).itemq = s.itemq := rfl
@[simp] theorem State.emit_txPos (s : State) (sp : Span) : (s.emit sp).txPos = s.txPos := rfl
@[simp] theorem State.emit_txBusy (s : State) (sp : Span) : (s.emit sp).txBusy = s.txBusy := rfl
@[simp] theorem State.emit_engActive (s : State) (sp : Span) : (s.emit sp).engActive = s.engActive := rfl
@[simp] theorem State.emit_engSeq (s : State) (sp : Span) : (s.emit sp).engSeq = s.engSeq := rfl
@[simp] theorem State.emit_engRep (s : State) (sp : Span) : (s.emit sp).engRep = s.engRep := rfl
@[simp] theorem State.emit_irqEn (s : State) (sp : Span) : (s.emit sp).irqEn = s.irqEn := rfl
@[simp] theorem State.emit_txOut (s : State) (sp : Span) : (s.emit sp).txOut = sp.level := rfl
@[simp] theorem State.emit_txTrace (s : State) (sp : Span) : (s.emit sp).txTrace = s.txTrace ++ [sp] := rfl
@[simp] theorem State.emit_rxPin (s : State) (sp : Span) : (s.emit sp).rxPin = s.rxPin := rfl
@[simp] theorem State.emit_rxReady (s : State) (sp : Span) : (s.emit sp).rxReady = s.rxReady := rfl
@[simp] theorem State.emit_rxState (s : State) (sp : Span) : (s.emit sp).rxState = s.rxState := rfl
@[simp] theorem State.emit_capBuf (s : State) (sp : Span) : (s.emit sp).capBuf = s.capBuf := rfl
@[simp] theorem State.emit_lastEdge (s : State) (sp : Span) : (s.emit sp).lastEdge = s.lastEdge := rfl
@[simp] theorem State.emit_gen (s : State) (sp : Span) : (s.emit sp).gen = s.gen := rfl
@[simp] theorem State.emit_dec (s : State) (sp : Span) : (s.emit sp).dec = s.dec := rfl
@[simp] theorem State.emit_rxLog (s : State) (sp : Span) : (s.emit sp).rxLog = s.rxLog := rfl

/-! The fields after reconfiguring the carrier (`State.reconfigure`). -/

@[simp] theorem State.reconfigure_cfg (s : State) (f : BitVec 32) : (s.reconfigure f).cfg = s.cfg := rfl
@[simp] theorem State.reconfigure_stream (s : State) (f : BitVec 32) : (s.reconfigure f).stream = s.stream := rfl
@[simp] theorem State.reconfigure_seq (s : State) (f : BitVec 32) : (s.reconfigure f).seq = s.seq := rfl
@[simp] theorem State.reconfigure_slots (s : State) (f : BitVec 32) : (s.reconfigure f).slots = s.slots := rfl
@[simp] theorem State.reconfigure_status (s : State) (f : BitVec 32) : (s.reconfigure f).status = s.status := rfl
@[simp] theorem State.reconfigure_result (s : State) (f : BitVec 32) : (s.reconfigure f).result = s.result := rfl
@[simp] theorem State.reconfigure_txPin (s : State) (f : BitVec 32) : (s.reconfigure f).txPin = s.txPin := rfl
@[simp] theorem State.reconfigure_carrierDuty (s : State) (f : BitVec 32) : (s.reconfigure f).carrierDuty = s.carrierDuty := rfl
@[simp] theorem State.reconfigure_txReady (s : State) (f : BitVec 32) : (s.reconfigure f).txReady = s.txReady := rfl
@[simp] theorem State.reconfigure_curCarrier (s : State) (f : BitVec 32) : (s.reconfigure f).curCarrier = some f := rfl
@[simp] theorem State.reconfigure_reconfCount (s : State) (f : BitVec 32) :
    (s.reconfigure f).reconfCount = s.reconfCount + 1 := rfl
@[simp] theorem State.reconfigure_onUs (s : State) (f : BitVec 32) :
    (s.reconfigure f).onUs = BitVec.ofNat 32 (carrierOn f.toNat s.carrierDuty.toNat) := rfl
@[simp] theorem State.reconfigure_offUs (s : State) (f : BitVec 32) :
    (s.reconfigure f).offUs = BitVec.ofNat 32 (carrierOff f.toNat s.carrierDuty.toNat) := rfl
@[simp] theorem State.reconfigure_clockDivider (s : State) (f : BitVec 32) :
    (s.reconfigure f).clockDivider = s.clockDivider := rfl
@[simp] theorem State.reconfigure_ticksPer10us (s : State) (f : BitVec 32) :
    (s.reconfigure f).ticksPer10us = s.ticksPer10us := rfl
@[simp] theorem State.reconfigure_channel (s : State) (f : BitVec 32) : (s.reconfigure f).channel = s.channel := rfl
@[simp] theorem State.reconfigure_itemq (s : State) (f : BitVec 32) : (s.reconfigure f).itemq = s.itemq := rfl
@[simp] theorem State.reconfigure_txPos (s : State) (f : BitVec 32) : (s.reconfigure f).txPos = s.txPos := rfl
@[simp] theorem State.reconfigure_txBusy (s : State) (f : BitVec 32) : (s.reconfigure f).txBusy = s.txBusy := rfl
@[simp] theorem State.reconfigure_engActive (s : State) (f : BitVec 32) : (s.reconfigure f).engActive = s.engActive := rfl
@[simp] theorem State.reconfigure_engSeq (s : State) (f : BitVec 32) : (s.reconfigure f).engSeq = s.engSeq := rfl
@[simp] theorem State.reconfigure_engRep (s : State) (f : BitVec 32) : (s.reconfigure f).engRep = s.engRep := rfl
@[simp] theorem State.reconfigure_irqEn (s : State) (f : BitVec 32) : (s.reconfigure f).irqEn = s.irqEn := rfl
@[simp] theorem State.reconfigure_txOut (s : State) (f : BitVec 32) : (s.reconfigure f).txOut = s.txOut := rfl
@[simp] theorem State.reconfigure_txTrace (s : State) (f : BitVec 32) : (s.reconfigure f).txTrace = s.txTrace := rfl
@[simp] theorem State.reconfigure_rxPin (s : State) (f : BitVec 32) : (s.reconfigure f).rxPin = s.rxPin := rfl
@[simp] theorem State.reconfigure_rxReady (s : State) (f : BitVec 32) : (s.reconfigure f).rxReady = s.rxReady := rfl
@[simp] theorem State.reconfigure_rxState (s : State) (f : BitVec 32) : (s.reconfigure f).rxState = s.rxState := rfl
@[simp] theorem State.reconfigure_capBuf (s : State) (f : BitVec 32) : (s.reconfigure f).capBuf = s.capBuf := rfl
@[simp] theorem State.reconfigure_lastEdge (s : State) (f : BitVec 32) : (s.reconfigure f).lastEdge = s.lastEdge := rfl
@[simp] theorem State.reconfigure_gen (s : State) (f : BitVec 32) : (s.reconfigure f).gen = s.gen := rfl
@[simp] theorem State.reconfigure_dec (s : State) (f : BitVec 32) : (s.reconfigure f).dec = s.dec := rfl
@[simp] theorem State.reconfigure_rxLog (s : State) (f : BitVec 32) : (s.reconfigure f).rxLog = s.rxLog := rfl

/-! The fields after submitting a pass (`State.submit`). -/

@[simp] theorem State.submit_cfg (s : State) (d : List Duration) : (s.submit d).cfg = s.cfg := rfl
@[simp] theorem State.submit_stream (s : State) (d : List Duration) : (s.submit d).stream = s.stream := rfl
@[simp] theorem State.submit_seq (s : State) (d : List Duration) : (s.submit d).seq = s.seq := rfl
@[simp] theorem State.submit_slots (s : State) (d : List Duration) : (s.submit d).slots = s.slots := rfl
@[simp] theorem State.submit_status (s : State) (d : List Duration) : (s.submit d).status = s.status := rfl
@[simp] theorem State.submit_result (s : State) (d : List Duration) : (s.submit d).result = s.result := rfl
@[simp] theorem State.submit_txPin (s : State) (d : List Duration) : (s.submit d).txPin = s.txPin := rfl
@[simp] theorem State.submit_carrierDuty (s : State) (d : List Duration) : (s.submit d).carrierDuty = s.carrierDuty := rfl
@[simp] theorem State.submit_txReady (s : State) (d : List Duration) : (s.submit d).txReady = s.txReady := rfl
@[simp] theorem State.submit_curCarrier (s : State) (d : List Duration) : (s.submit d).curCarrier = s.curCarrier := rfl
@[simp] theorem State.submit_reconfCount (s : State) (d : List Duration) : (s.submit d).reconfCount = s.reconfCount := rfl
@[simp] theorem State.submit_onUs (s : State) (d : List Duration) : (s.submit d).onUs = s.onUs := rfl
@[simp] theorem State.submit_offUs (s : State) (d : List Duration) : (s.submit d).offUs = s.offUs := rfl
@[simp] theorem State.submit_clockDivider (s : State) (d : List Duration) : (s.submit d).clockDivider = s.clockDivider := rfl
@[simp] theorem State.submit_ticksPer10us (s : State) (d : List Duration) : (s.submit d).ticksPer10us = s.ticksPer10us := rfl
@[simp] theorem State.submit_channel (s : State) (d : List Duration) : (s.submit d).channel = s.channel := rfl
@[simp] theorem State.submit_itemq (s : State) (d : List Duration) :
    (s.submit d).itemq = toItems s.ticksPer10us.toNat s.cfg.itemTickMax d := rfl
@[simp] theorem State.submit_txPos (s : State) (d : List Duration) : (s.submit d).txPos = 0 := rfl
@[simp] theorem State.submit_txBusy (s : State) (d : List Duration) :
    (s.submit d).txBusy = !(toItems s.ticksPer10us.toNat s.cfg.itemTickMax d).isEmpty := rfl
@[simp] theorem State.submit_engActive (s : State) (d : List Duration) : (s.submit d).engActive = s.engActive := rfl
@[simp] theorem State.submit_engSeq (s : State) (d : List Duration) : (s.submit d).engSeq = s.engSeq := rfl
@[simp] theorem State.submit_engRep (s : State) (d : List Duration) : (s.submit d).engRep = s.engRep := rfl
@[simp] theorem State.submit_irqEn (s : State) (d : List Duration) : (s.submit d).irqEn = s.irqEn := rfl
@[simp] theorem State.submit_txOut (s : State) (d : List Duration) : (s.submit d).txOut = s.txOut := rfl
@[simp] theorem State.submit_txTrace (s : State) (d : List Duration) : (s.submit d).txTrace = s.txTrace := rfl
@[simp] theorem State.submit_rxPin (s : State) (d : List Duration) : (s.submit d).rxPin = s.rxPin := rfl
@[simp] theorem State.submit_rxReady (s : State) (d : List Duration) : (s.submit d).rxReady = s.rxReady := rfl
@[simp] theorem State.submit_rxState (s : State) (d : List Duration) : (s.submit d).rxState = s.rxState := rfl
@[simp] theorem State.submit_capBuf (s : State) (d : List Duration) : (s.submit d).capBuf = s.capBuf := rfl
@[simp] theorem State.submit_lastEdge (s : State) (d : List Duration) : (s.submit d).lastEdge = s.lastEdge := rfl
@[simp] theorem State.submit_gen (s : State) (d : List Duration) : (s.submit d).gen = s.gen := rfl
@[simp] theorem State.submit_dec (s : State) (d : List Duration) : (s.submit d).dec = s.dec := rfl
@[simp] theorem State.submit_rxLog (s : State) (d : List Duration) : (s.submit d).rxLog = s.rxLog := rfl

/-! The fields after the engine taking a copy (`State.startEngine`). -/

@[simp] theorem State.startEngine_cfg (s : State) (q : PulseSeq) : (s.startEngine q).cfg = s.cfg := rfl
@[simp] theorem State.startEngine_stream (s : State) (q : PulseSeq) : (s.startEngine q).stream = s.stream := rfl
@[simp] theorem State.startEngine_seq (s : State) (q : PulseSeq) : (s.startEngine q).seq = s.seq := rfl
@[simp] theorem State.startEngine_slots (s : State) (q : PulseSeq) : (s.startEngine q).slots = s.slots := rfl
@[simp] theorem State.startEngine_status (s : State) (q : PulseSeq) : (s.startEngine q).status = s.status := rfl
@[simp] theorem State.startEngine_result (s : State) (q : PulseSeq) : (s.startEngine q).result = s.result := rfl
@[simp] theorem State.startEngine_txPin (s : State) (q : PulseSeq) : (s.startEngine q).txPin = s.txPin := rfl
@[simp] theorem State.startEngine_carrierDuty (s : State) (q : PulseSeq) : (s.startEngine q).carrierDuty = s.carrierDuty := rfl
@[simp] theorem State.startEngine_txReady (s : State) (q : PulseSeq) : (s.startEngine q).txReady = s.txReady := rfl
@[simp] theorem State.startEngine_curCarrier (s : State) (q : PulseSeq) : (s.startEngine q).curCarrier = s.curCarrier := rfl
@[simp] theorem State.startEngine_reconfCount (s : State) (q : PulseSeq) : (s.startEngine q).reconfCount = s.reconfCount := rfl
@[simp] theorem State.startEngine_onUs (s : State) (q : PulseSeq) : (s.startEngine q).onUs = s.onUs := rfl
@[simp] theorem State.startEngine_offUs (s : State) (q : PulseSeq) : (s.startEngine q).offUs = s.offUs := rfl
@[simp] theorem State.startEngine_clockDivider (s : State) (q : PulseSeq) :
    (s.startEngine q).clockDivider = s.clockDivider := rfl
@[simp] theorem State.startEngine_ticksPer10us (s : State) (q : PulseSeq) :
    (s.startEngine q).ticksPer10us = s.ticksPer10us := rfl
@[simp] theorem State.startEngine_channel (s : State) (q : PulseSeq) : (s.startEngine q).channel = s.channel := rfl
@[simp] theorem State.startEngine_itemq (s : State) (q : PulseSeq) : (s.startEngine q).itemq = s.itemq := rfl
@[simp] theorem State.startEngine_txPos (s : State) (q : PulseSeq) : (s.startEngine q).txPos = s.txPos := rfl
@[simp] theorem State.startEngine_txBusy (s : State) (q : PulseSeq) : (s.startEngine q).txBusy = s.txBusy := rfl
@[simp] theorem State.startEngine_engActive (s : State) (q : PulseSeq) : (s.startEngine q).engActive = true := rfl
@[simp] theorem State.startEngine_engSeq (s : State) (q : PulseSeq) : (s.startEngine q).engSeq = q := rfl
@[simp] theorem State.startEngine_engRep (s : State) (q : PulseSeq) : (s.startEngine q).engRep = 1 := rfl
@[simp] theorem State.startEngine_irqEn (s : State) (q : PulseSeq) : (s.startEngine q).irqEn = s.irqEn := rfl
@[simp] theorem State.startEngine_txOut (s : State) (q : PulseSeq) : (s.startEngine q).txOut = s.txOut := rfl
@[simp] theorem State.startEngine_txTrace (s : State) (q : PulseSeq) : (s.startEngine q).txTrace = s.txTrace := rfl
@[simp] theorem State.startEngine_rxPin (s : State) (q : PulseSeq) : (s.startEngine q).rxPin = s.rxPin := rfl
@[simp] theorem State.startEngine_rxReady (s : State) (q : PulseSeq) : (s.startEngine q).rxReady = s.rxReady := rfl
@[simp] theorem State.startEngine_rxState (s : State) (q : PulseSeq) : (s.startEngine q).rxState = s.rxState := rfl
@[simp] theorem State.startEngine_capBuf (s : State) (q : PulseSeq) : (s.startEngine q).capBuf = s.capBuf := rfl
@[simp] theorem State.startEngine_lastEdge (s : State) (q : PulseSeq) : (s.startEngine q).lastEdge = s.lastEdge := rfl
@[simp] theorem State.startEngine_gen (s : State) (q : PulseSeq) : (s.startEngine q).gen = s.gen := rfl
@[simp] theorem State.startEngine_dec (s : State) (q : PulseSeq) : (s.startEngine q).dec = s.dec := rfl
@[simp] theorem State.startEngine_rxLog (s : State) (q : PulseSeq) : (s.startEngine q).rxLog = s.rxLog := rfl

/-! The fields after the interrupt enable (`State.setIrq`). -/

@[simp] theorem State.setIrq_cfg (s : State) (on : Bool) : (s.setIrq on).cfg = s.cfg := rfl
@[simp] theorem State.setIrq_stream (s : State) (on : Bool) : (s.setIrq on).stream = s.stream := rfl
@[simp] theorem State.setIrq_seq (s : State) (on : Bool) : (s.setIrq on).seq = s.seq := rfl
@[simp] theorem State.setIrq_slots (s : State) (on : Bool) : (s.setIrq on).slots = s.slots := rfl
@[simp] theorem State.setIrq_status (s : State) (on : Bool) : (s.setIrq on).status = s.status := rfl
@[simp] theorem State.setIrq_result (s : State) (on : Bool) : (s.setIrq on).result = s.result := rfl
@[simp] theorem State.setIrq_txPin (s : State) (on : Bool) : (s.setIrq on).txPin = s.txPin := rfl
@[simp] theorem State.setIrq_carrierDuty (s : State) (on : Bool) : (s.setIrq on).carrierDuty = s.carrierDuty := rfl
@[simp] theorem State.setIrq_txReady (s : State) (on : Bool) : (s.setIrq on).txReady = s.txReady := rfl
@[simp] theorem State.setIrq_curCarrier (s : State) (on : Bool) : (s.setIrq on).curCarrier = s.curCarrier := rfl
@[simp] theorem State.setIrq_reconfCount (s : State) (on : Bool) : (s.setIrq on).reconfCount = s.reconfCount := rfl
@[simp] theorem State.setIrq_onUs (s : State) (on : Bool) : (s.setIrq on).onUs = s.onUs := rfl
@[simp] theorem State.setIrq_offUs (s : State) (on : Bool) : (s.setIrq on).offUs = s.offUs := rfl
@[simp] theorem State.setIrq_clockDivider (s : State) (on : Bool) : (s.setIrq on).clockDivider = s.clockDivider := rfl
@[simp] theorem State.setIrq_ticksPer10us (s : State) (on : Bool) : (s.setIrq on).ticksPer10us = s.ticksPer10us := rfl
@[simp] theorem State.setIrq_channel (s : State) (on : Bool) : (s.setIrq on).channel = s.channel := rfl
@[simp] theorem State.setIrq_itemq (s : State) (on : Bool) : (s.setIrq on).itemq = s.itemq := rfl
@[simp] theorem State.setIrq_txPos (s : State) (on : Bool) : (s.setIrq on).txPos = s.txPos := rfl
@[simp] theorem State.setIrq_txBusy (s : State) (on : Bool) : (s.setIrq on).txBusy = s.txBusy := rfl
@[simp] theorem State.setIrq_engActive (s : State) (on : Bool) : (s.setIrq on).engActive = s.engActive := rfl
@[simp] theorem State.setIrq_engSeq (s : State) (on : Bool) : (s.setIrq on).engSeq = s.engSeq := rfl
@[simp] theorem State.setIrq_engRep (s : State) (on : Bool) : (s.setIrq on).engRep = s.engRep := rfl
@[simp] theorem State.setIrq_irqEn (s : State) (on : Bool) : (s.setIrq on).irqEn = on := rfl
@[simp] theorem State.setIrq_txOut (s : State) (on : Bool) : (s.setIrq on).txOut = s.txOut := rfl
@[simp] theorem State.setIrq_txTrace (s : State) (on : Bool) : (s.setIrq on).txTrace = s.txTrace := rfl
@[simp] theorem State.setIrq_rxPin (s : State) (on : Bool) : (s.setIrq on).rxPin = s.rxPin := rfl
@[simp] theorem State.setIrq_rxReady (s : State) (on : Bool) : (s.setIrq on).rxReady = s.rxReady := rfl
@[simp] theorem State.setIrq_rxState (s : State) (on : Bool) : (s.setIrq on).rxState = s.rxState := rfl
@[simp] theorem State.setIrq_capBuf (s : State) (on : Bool) : (s.setIrq on).capBuf = s.capBuf := rfl
@[simp] theorem State.setIrq_lastEdge (s : State) (on : Bool) : (s.setIrq on).lastEdge = s.lastEdge := rfl
@[simp] theorem State.setIrq_gen (s : State) (on : Bool) : (s.setIrq on).gen = s.gen := rfl
@[simp] theorem State.setIrq_dec (s : State) (on : Bool) : (s.setIrq on).dec = s.dec := rfl
@[simp] theorem State.setIrq_rxLog (s : State) (on : Bool) : (s.setIrq on).rxLog = s.rxLog := rfl

/-! The fields after the pin driven without a span (`State.drivePin`). -/

@[simp] theorem State.drivePin_cfg (s : State) (level : Level) : (s.drivePin level).cfg = s.cfg := rfl
@[simp] theorem State.drivePin_stream (s : State) (level : Level) : (s.drivePin level).stream = s.stream := rfl
@[simp] theorem State.drivePin_seq (s : State) (level : Level) : (s.drivePin level).seq = s.seq := rfl
@[simp] theorem State.drivePin_slots (s : State) (level : Level) : (s.drivePin level).slots = s.slots := rfl
@[simp] theorem State.drivePin_status (s : State) (level : Level) : (s.drivePin level).status = s.status := rfl
@[simp] theorem State.drivePin_result (s : State) (level : Level) : (s.drivePin level).result = s.result := rfl
@[simp] theorem State.drivePin_txPin (s : State) (level : Level) : (s.drivePin level).txPin = s.txPin := rfl
@[simp] theorem State.drivePin_carrierDuty (s : State) (level : Level) : (s.drivePin level).carrierDuty = s.carrierDuty := rfl
@[simp] theorem State.drivePin_txReady (s : State) (level : Level) : (s.drivePin level).txReady = s.txReady := rfl
@[simp] theorem State.drivePin_curCarrier (s : State) (level : Level) : (s.drivePin level).curCarrier = s.curCarrier := rfl
@[simp] theorem State.drivePin_reconfCount (s : State) (level : Level) : (s.drivePin level).reconfCount = s.reconfCount := rfl
@[simp] theorem State.drivePin_onUs (s : State) (level : Level) : (s.drivePin level).onUs = s.onUs := rfl
@[simp] theorem State.drivePin_offUs (s : State) (level : Level) : (s.drivePin level).offUs = s.offUs := rfl
@[simp] theorem State.drivePin_clockDivider (s : State) (level : Level) :
    (s.drivePin level).clockDivider = s.clockDivider := rfl
@[simp] theorem State.drivePin_ticksPer10us (s : State) (level : Level) :
    (s.drivePin level).ticksPer10us = s.ticksPer10us := rfl
@[simp] theorem State.drivePin_channel (s : State) (level : Level) : (s.drivePin level).channel = s.channel := rfl
@[simp] theorem State.drivePin_itemq (s : State) (level : Level) : (s.drivePin level).itemq = s.itemq := rfl
@[simp] theorem State.drivePin_txPos (s : State) (level : Level) : (s.drivePin level).txPos = s.txPos := rfl
@[simp] theorem State.drivePin_txBusy (s : State) (level : Level) : (s.drivePin level).txBusy = s.txBusy := rfl
@[simp] theorem State.drivePin_engActive (s : State) (level : Level) : (s.drivePin level).engActive = s.engActive := rfl
@[simp] theorem State.drivePin_engSeq (s : State) (level : Level) : (s.drivePin level).engSeq = s.engSeq := rfl
@[simp] theorem State.drivePin_engRep (s : State) (level : Level) : (s.drivePin level).engRep = s.engRep := rfl
@[simp] theorem State.drivePin_irqEn (s : State) (level : Level) : (s.drivePin level).irqEn = s.irqEn := rfl
@[simp] theorem State.drivePin_txOut (s : State) (level : Level) : (s.drivePin level).txOut = level := rfl
@[simp] theorem State.drivePin_txTrace (s : State) (level : Level) : (s.drivePin level).txTrace = s.txTrace := rfl
@[simp] theorem State.drivePin_rxPin (s : State) (level : Level) : (s.drivePin level).rxPin = s.rxPin := rfl
@[simp] theorem State.drivePin_rxReady (s : State) (level : Level) : (s.drivePin level).rxReady = s.rxReady := rfl
@[simp] theorem State.drivePin_rxState (s : State) (level : Level) : (s.drivePin level).rxState = s.rxState := rfl
@[simp] theorem State.drivePin_capBuf (s : State) (level : Level) : (s.drivePin level).capBuf = s.capBuf := rfl
@[simp] theorem State.drivePin_lastEdge (s : State) (level : Level) : (s.drivePin level).lastEdge = s.lastEdge := rfl
@[simp] theorem State.drivePin_gen (s : State) (level : Level) : (s.drivePin level).gen = s.gen := rfl
@[simp] theorem State.drivePin_dec (s : State) (level : Level) : (s.drivePin level).dec = s.dec := rfl
@[simp] theorem State.drivePin_rxLog (s : State) (level : Level) : (s.drivePin level).rxLog = s.rxLog := rfl

/-! The fields after completing a capture (`State.completeCapture`). -/

@[simp] theorem State.completeCapture_cfg (s : State) : (s.completeCapture).cfg = s.cfg := rfl
@[simp] theorem State.completeCapture_stream (s : State) : (s.completeCapture).stream = s.stream := rfl
@[simp] theorem State.completeCapture_seq (s : State) : (s.completeCapture).seq = s.seq := rfl
@[simp] theorem State.completeCapture_slots (s : State) : (s.completeCapture).slots = s.slots := rfl
@[simp] theorem State.completeCapture_status (s : State) : (s.completeCapture).status = s.status := rfl
@[simp] theorem State.completeCapture_result (s : State) : (s.completeCapture).result = s.result := rfl
@[simp] theorem State.completeCapture_txPin (s : State) : (s.completeCapture).txPin = s.txPin := rfl
@[simp] theorem State.completeCapture_carrierDuty (s : State) : (s.completeCapture).carrierDuty = s.carrierDuty := rfl
@[simp] theorem State.completeCapture_txReady (s : State) : (s.completeCapture).txReady = s.txReady := rfl
@[simp] theorem State.completeCapture_curCarrier (s : State) : (s.completeCapture).curCarrier = s.curCarrier := rfl
@[simp] theorem State.completeCapture_reconfCount (s : State) : (s.completeCapture).reconfCount = s.reconfCount := rfl
@[simp] theorem State.completeCapture_onUs (s : State) : (s.completeCapture).onUs = s.onUs := rfl
@[simp] theorem State.completeCapture_offUs (s : State) : (s.completeCapture).offUs = s.offUs := rfl
@[simp] theorem State.completeCapture_clockDivider (s : State) : (s.completeCapture).clockDivider = s.clockDivider := rfl
@[simp] theorem State.completeCapture_ticksPer10us (s : State) : (s.completeCapture).ticksPer10us = s.ticksPer10us := rfl
@[simp] theorem State.completeCapture_channel (s : State) : (s.completeCapture).channel = s.channel := rfl
@[simp] theorem State.completeCapture_itemq (s : State) : (s.completeCapture).itemq = s.itemq := rfl
@[simp] theorem State.completeCapture_txPos (s : State) : (s.completeCapture).txPos = s.txPos := rfl
@[simp] theorem State.completeCapture_txBusy (s : State) : (s.completeCapture).txBusy = s.txBusy := rfl
@[simp] theorem State.completeCapture_engActive (s : State) : (s.completeCapture).engActive = s.engActive := rfl
@[simp] theorem State.completeCapture_engSeq (s : State) : (s.completeCapture).engSeq = s.engSeq := rfl
@[simp] theorem State.completeCapture_engRep (s : State) : (s.completeCapture).engRep = s.engRep := rfl
@[simp] theorem State.completeCapture_irqEn (s : State) : (s.completeCapture).irqEn = s.irqEn := rfl
@[simp] theorem State.completeCapture_txOut (s : State) : (s.completeCapture).txOut = s.txOut := rfl
@[simp] theorem State.completeCapture_txTrace (s : State) : (s.completeCapture).txTrace = s.txTrace := rfl
@[simp] theorem State.completeCapture_rxPin (s : State) : (s.completeCapture).rxPin = s.rxPin := rfl
@[simp] theorem State.completeCapture_rxReady (s : State) : (s.completeCapture).rxReady = s.rxReady := rfl
@[simp] theorem State.completeCapture_rxState (s : State) : (s.completeCapture).rxState = RxState.done := rfl
@[simp] theorem State.completeCapture_capBuf (s : State) : (s.completeCapture).capBuf = s.capBuf := rfl
@[simp] theorem State.completeCapture_lastEdge (s : State) : (s.completeCapture).lastEdge = s.lastEdge := rfl
@[simp] theorem State.completeCapture_gen (s : State) : (s.completeCapture).gen = s.gen + 1 := rfl
@[simp] theorem State.completeCapture_dec (s : State) : (s.completeCapture).dec = s.dec := rfl
@[simp] theorem State.completeCapture_rxLog (s : State) : (s.completeCapture).rxLog = s.rxLog := rfl

/-! The fields after building a sequence (`State.buildSeq`). -/

@[simp] theorem State.buildSeq_cfg (s : State) (carrier : BitVec 32) (d : List Duration) :
    (s.buildSeq carrier d).cfg = s.cfg := rfl
@[simp] theorem State.buildSeq_stream (s : State) (carrier : BitVec 32) (d : List Duration) :
    (s.buildSeq carrier d).stream = s.stream := rfl
@[simp] theorem State.buildSeq_seq (s : State) (carrier : BitVec 32) (d : List Duration) :
    (s.buildSeq carrier d).seq = { carrier := carrier, durations := d, repeatCount := 1, repeatGap := 0 } := rfl
@[simp] theorem State.buildSeq_slots (s : State) (carrier : BitVec 32) (d : List Duration) :
    (s.buildSeq carrier d).slots = s.slots := rfl
@[simp] theorem State.buildSeq_status (s : State) (carrier : BitVec 32) (d : List Duration) :
    (s.buildSeq carrier d).status = s.status := rfl
@[simp] theorem State.buildSeq_result (s : State) (carrier : BitVec 32) (d : List Duration) :
    (s.buildSeq carrier d).result = s.result := rfl
@[simp] theorem State.buildSeq_txPin (s : State) (carrier : BitVec 32) (d : List Duration) :
    (s.buildSeq carrier d).txPin = s.txPin := rfl
@[simp] theorem State.buildSeq_carrierDuty (s : State) (carrier : BitVec 32) (d : List Duration) :
    (s.buildSeq carrier d).carrierDuty = s.carrierDuty := rfl
@[simp] theorem State.buildSeq_txReady (s : State) (carrier : BitVec 32) (d : List Duration) :
    (s.buildSeq carrier d).txReady = s.txReady := rfl
@[simp] theorem State.buildSeq_curCarrier (s : State) (carrier : BitVec 32) (d : List Duration) :
    (s.buildSeq carrier d).curCarrier = s.curCarrier := rfl
@[simp] theorem State.buildSeq_reconfCount (s : State) (carrier : BitVec 32) (d : List Duration) :
    (s.buildSeq carrier d).reconfCount = s.reconfCount := rfl
@[simp] theorem State.buildSeq_onUs (s : State) (carrier : BitVec 32) (d : List Duration) :
    (s.buildSeq carrier d).onUs = s.onUs := rfl
@[simp] theorem State.buildSeq_offUs (s : State) (carrier : BitVec 32) (d : List Duration) :
    (s.buildSeq carrier d).offUs = s.offUs := rfl
@[simp] theorem State.buildSeq_clockDivider (s : State) (carrier : BitVec 32) (d : List Duration) :
    (s.buildSeq carrier d).clockDivider = s.clockDivider := rfl
@[simp] theorem State.buildSeq_ticksPer10us (s : State) (carrier : BitVec 32) (d : List Duration) :
    (s.buildSeq carrier d).ticksPer10us = s.ticksPer10us := rfl
@[simp] theorem State.buildSeq_channel (s : State) (carrier : BitVec 32) (d : List Duration) :
    (s.buildSeq carrier d).channel = s.channel := rfl
@[simp] theorem State.buildSeq_itemq (s : State) (carrier : BitVec 32) (d : List Duration) :
    (s.buildSeq carrier d).itemq = s.itemq := rfl
@[simp] theorem State.buildSeq_txPos (s : State) (carrier : BitVec 32) (d : List Duration) :
    (s.buildSeq carrier d).txPos = s.txPos := rfl
@[simp] theorem State.buildSeq_txBusy (s : State) (carrier : BitVec 32) (d : List Duration) :
    (s.buildSeq carrier d).txBusy = s.txBusy := rfl
@[simp] theorem State.buildSeq_engActive (s : State) (carrier : BitVec 32) (d : List Duration) :
    (s.buildSeq carrier d).engActive = s.engActive := rfl
@[simp] theorem State.buildSeq_engSeq (s : State) (carrier : BitVec 32) (d : List Duration) :
    (s.buildSeq carrier d).engSeq = s.engSeq := rfl
@[simp] theorem State.buildSeq_engRep (s : State) (carrier : BitVec 32) (d : List Duration) :
    (s.buildSeq carrier d).engRep = s.engRep := rfl
@[simp] theorem State.buildSeq_irqEn (s : State) (carrier : BitVec 32) (d : List Duration) :
    (s.buildSeq carrier d).irqEn = s.irqEn := rfl
@[simp] theorem State.buildSeq_txOut (s : State) (carrier : BitVec 32) (d : List Duration) :
    (s.buildSeq carrier d).txOut = s.txOut := rfl
@[simp] theorem State.buildSeq_txTrace (s : State) (carrier : BitVec 32) (d : List Duration) :
    (s.buildSeq carrier d).txTrace = s.txTrace := rfl
@[simp] theorem State.buildSeq_rxPin (s : State) (carrier : BitVec 32) (d : List Duration) :
    (s.buildSeq carrier d).rxPin = s.rxPin := rfl
@[simp] theorem State.buildSeq_rxReady (s : State) (carrier : BitVec 32) (d : List Duration) :
    (s.buildSeq carrier d).rxReady = s.rxReady := rfl
@[simp] theorem State.buildSeq_rxState (s : State) (carrier : BitVec 32) (d : List Duration) :
    (s.buildSeq carrier d).rxState = s.rxState := rfl
@[simp] theorem State.buildSeq_capBuf (s : State) (carrier : BitVec 32) (d : List Duration) :
    (s.buildSeq carrier d).capBuf = s.capBuf := rfl
@[simp] theorem State.buildSeq_lastEdge (s : State) (carrier : BitVec 32) (d : List Duration) :
    (s.buildSeq carrier d).lastEdge = s.lastEdge := rfl
@[simp] theorem State.buildSeq_gen (s : State) (carrier : BitVec 32) (d : List Duration) :
    (s.buildSeq carrier d).gen = s.gen := rfl
@[simp] theorem State.buildSeq_dec (s : State) (carrier : BitVec 32) (d : List Duration) :
    (s.buildSeq carrier d).dec = s.dec := rfl
@[simp] theorem State.buildSeq_rxLog (s : State) (carrier : BitVec 32) (d : List Duration) :
    (s.buildSeq carrier d).rxLog = s.rxLog := rfl

end Sys2Proof.Machine
end

