-- ==== Sys2Proof/Laws/Ops.lean ====
section
/-! SUPPORT. What each shared operation can do, said once. -/

namespace Sys2Proof.Machine

/-- Raising an error answers one state: only `STATUS` and the result port differ (rule R262). -/
theorem raise_next {e : Err} {s t : State} :
    raise e s = .next t ↔ t = { s with status := e.code, result := none } := by
  simp [raise, eq_comm]

/-- Completing a command answers one state. -/
theorem returnOk_next {v : Option CmdResult} {s t : State} : returnOk v s = .next t ↔ t = s.finish v := by
  simp [returnOk, eq_comm]

/-- A host step answers a next state exactly when the host is free and its effect does (rules R270, R271). -/
theorem hostStep_next {s t : State} {o : Answer} :
    hostStep s o = .next t ↔ s.engActive = false ∧ o = .next t := by
  cases h : s.engActive <;> simp [hostStep, State.hostFree, h]

/-- A host step faults exactly when the host is free and its effect does. -/
theorem hostStep_fault {s : State} {o : Answer} {f : Fault} :
    hostStep s o = .fault f ↔ s.engActive = false ∧ o = .fault f := by
  cases h : s.engActive <;> simp [hostStep, State.hostFree, h]

/-- A free host's step is its effect. -/
theorem hostStep_free {s : State} (o : Answer) (h : s.engActive = false) : hostStep s o = o := by
  simp [hostStep, State.hostFree, h]

/-- A held host takes no step (rule R271). -/
theorem hostStep_blocked {s : State} (o : Answer) (h : s.engActive = true) : hostStep s o = .refused .hostBlocked := by
  simp [hostStep, State.hostFree, h]

/-- An illegal command word changes only `STATUS` and the result port (rule R106). -/
theorem illegalCommand_next {s t : State} :
    illegalCommand s = .next t ↔ s.engActive = false ∧ t = { s with status := 1, result := none } := by
  simp [illegalCommand, hostStep_next, raise_next, Err.code]

/-- The level the pin is left at by a list of spans. -/
def lastLevel (level : Level) : List Span → Level
  | [] => level
  | sp :: sps => lastLevel sp.level sps

/-- Emitting spans appends them to the history and leaves the pin at the last one's level. -/
theorem State.emitAll_eq (s : State) (sps : List Span) :
    s.emitAll sps = { s with txTrace := s.txTrace ++ sps, txOut := lastLevel s.txOut sps } := by
  induction sps generalizing s with
  | nil => simp [State.emitAll, lastLevel]
  | cons sp sps ih => simp [State.emitAll, ih, lastLevel, State.emit, memAppend]

/-- A bit-bang send adds its spans, leaves the pin inactive and interrupts enabled, and touches nothing else (rules R162,
R163). -/
theorem State.bitbangSend_eq (s : State) (q : PulseSeq) :
    s.bitbangSend q = { s with txTrace := s.txTrace ++ bitbangSpans q, txOut := false, irqEn := true } := by
  simp [State.bitbangSend, State.emitAll_eq, State.setIrq, State.drivePin]

/-- A peripheral send submits the first pass and, when there are more, starts the engine (rule R167). -/
theorem State.peripheralSend_eq (s : State) (q : PulseSeq) :
    s.peripheralSend q = s.submit q.durations ∧ q.repeatCount = 1#16 ∨
      s.peripheralSend q = (s.submit q.durations).startEngine q ∧ q.repeatCount ≠ 1#16 := by
  by_cases h : q.repeatCount = 1#16
  · exact .inl ⟨by rw [State.peripheralSend, if_pos h], h⟩
  · exact .inr ⟨by rw [State.peripheralSend, if_neg h], h⟩

/-- Everything a send can answer (rule R153). -/
theorem send_next {q : PulseSeq} {s t : State} (h : send q s = .next t) :
    (s.txReady = false ∧ t = { s with status := 3, result := none }) ∨
    (s.txReady = true ∧ q.durations = [] ∧ t = s.finish none) ∨
    (s.txReady = true ∧ q.durations ≠ [] ∧ s.cfg.backend = .peripheral ∧ s.txBusy = true ∧
      t = { s with status := 2, result := none }) ∨
    (s.txReady = true ∧ q.durations ≠ [] ∧ s.cfg.backend = .bitbang ∧
      t = ((s.reconfigureIfNeeded q.carrier).bitbangSend q).finish none) ∨
    (s.txReady = true ∧ q.durations ≠ [] ∧ s.cfg.backend = .peripheral ∧ s.txBusy = false ∧
      t = ((s.reconfigureIfNeeded q.carrier).peripheralSend q).finish none) := by
  have hcfg : (s.reconfigureIfNeeded q.carrier).cfg = s.cfg := by
    unfold State.reconfigureIfNeeded; split <;> rfl
  unfold send at h
  split at h
  · next hr => exact .inl ⟨by simpa using hr, raise_next.1 h⟩
  next hr =>
  have hr : s.txReady = true := by simpa using hr
  split at h
  · next hd => exact .inr (.inl ⟨hr, by simpa using hd, returnOk_next.1 h⟩)
  next hd =>
  have hd : q.durations ≠ [] := by simpa using hd
  split at h
  · next hb =>
    simp only [Bool.and_eq_true, decide_eq_true_eq] at hb
    exact .inr (.inr (.inl ⟨hr, hd, hb.1, hb.2, raise_next.1 h⟩))
  next hb =>
  have ht := returnOk_next.1 h
  rw [State.play, hcfg] at ht
  cases hk : s.cfg.backend with
  | bitbang => exact .inr (.inr (.inr (.inl ⟨hr, hd, rfl, by rw [ht, hk]⟩)))
  | peripheral => exact .inr (.inr (.inr (.inr ⟨hr, hd, rfl, by simpa [hk] using hb, by rw [ht, hk]⟩)))

/-- A send never faults and is never refused: its errors are statuses (rule R260). -/
theorem send_total (q : PulseSeq) (s : State) : ∃ t, send q s = .next t := by
  unfold send raise returnOk
  repeat' split
  all_goals exact ⟨_, rfl⟩

/-- Everything an `ENC.*` command can answer (rules R120, R125, R262). -/
theorem encodeCommand_next {v : Vendor} {n : BitVec 16} {a d : Word} {s t : State}
    (h : encodeCommand v n a d s = .next t) :
    s.engActive = false ∧
      ((encodeFrame (s.cfg.desc v) a.toNat d.toNat n.toNat = none ∧ t = { s with status := 1, result := none }) ∨
        ∃ F, encodeFrame (s.cfg.desc v) a.toNat d.toNat n.toNat = some F ∧
          t = (s.buildSeq (s.cfg.desc v).carrierHz F).finish none) := by
  rw [encodeCommand, hostStep_next] at h
  refine ⟨h.1, ?_⟩
  have h2 := h.2
  split at h2
  · next he => exact .inl ⟨he, raise_next.1 h2⟩
  · next F he => exact .inr ⟨F, he, returnOk_next.1 h2⟩

/-- Everything registering a decoder can answer (rules R202, R262). -/
theorem registerDecoder_next {e : DecEntry} {s t : State} (h : registerDecoder e s = .next t) :
    t = { s with status := 1, result := none } ∨
      (e.nbits.toNat ≥ (s.cfg.desc e.vendor).nbitsMin ∧ e.nbits.toNat ≤ (s.cfg.desc e.vendor).nbitsMax ∧
        expectedFits (s.cfg.desc e.vendor) e.mode e.nbits.toNat e.expAddress e.expData = true ∧
        s.dec.length < s.cfg.ndec ∧
        t = ({ s with dec := s.dec ++ [e] } : State).finish (some (.index (BitVec.ofNat 16 s.dec.length)))) := by
  unfold registerDecoder at h
  split at h
  · exact .inl (raise_next.1 h)
  split at h
  · exact .inl (raise_next.1 h)
  split at h
  · exact .inl (raise_next.1 h)
  · next h1 h2 h3 =>
    right
    simp only [nbitsLegal, Bool.not_eq_true', Bool.and_eq_false_iff, decide_eq_false_iff_not, not_or, not_not] at h1
    simp only [State.ndecUsed, not_le] at h3
    exact ⟨h1.1, h1.2, by simpa using h2, h3, returnOk_next.1 h⟩

/-- The cursor moves on, or playback ends (rule R170). -/
theorem State.advance_cases (s : State) :
    (s.txPos + 1 < s.itemq.length ∧ s.advance = { s with txPos := s.txPos + 1 }) ∨
      (s.itemq.length ≤ s.txPos + 1 ∧ s.advance = { s with txBusy := false, itemq := [], txPos := 0, txOut := false }) := by
  by_cases h : s.txPos + 1 < s.itemq.length
  · exact .inl ⟨h, by simp [State.advance, h]⟩
  · exact .inr ⟨by omega, by simp [State.advance, h]⟩

/-- An entry is appended or, with the buffer full, dropped (rules R206, R209). -/
theorem State.capture_cases (s : State) (g : BitVec 32) :
    (s.capBuf.length < s.cfg.capCapacity ∧ s.capture g = { s with capBuf := s.capBuf ++ [g] }) ∨
      (s.cfg.capCapacity ≤ s.capBuf.length ∧ s.capture g = s) := by
  by_cases h : s.capBuf.length < s.cfg.capCapacity
  · exact .inl ⟨h, by simp [State.capture, State.capLen, h, memAppend]⟩
  · exact .inr ⟨by omega, by simp [State.capture, State.capLen, h]⟩

/-- The items of a duration carry exactly its ticks (rule R166). -/
theorem splitTicks_sum (m : Nat) (level : Level) (fuel ticks : Nat) :
    ((splitTicks m level fuel ticks).map (·.ticks)).sum = ticks := by
  induction fuel generalizing ticks with
  | zero => by_cases h : ticks > 0 <;> simp [splitTicks, h]; omega
  | succ f ih =>
    by_cases h : ticks > m
    · simp [splitTicks, h, ih]; omega
    · by_cases h0 : ticks > 0 <;> simp [splitTicks, h, h0]; omega

/-- With fuel for every full item, an item holds 1 to `ITEM_TICK_MAX` ticks at the entry's level (rules R29, R166). -/
theorem splitTicks_legal {m : Nat} (hm : 1 ≤ m) (level : Level) (fuel ticks : Nat) (hf : ticks ≤ m * (fuel + 1)) :
    ∀ x ∈ splitTicks m level fuel ticks, x.level = level ∧ 1 ≤ x.ticks ∧ x.ticks ≤ m := by
  induction fuel generalizing ticks with
  | zero =>
    intro x hx
    by_cases h : ticks > 0
    · simp [splitTicks, h] at hx
      subst hx
      exact ⟨rfl, h, by simpa using hf⟩
    · simp [splitTicks, h] at hx
  | succ f ih =>
    intro x hx
    by_cases h : ticks > m
    · simp only [splitTicks, h, if_true, List.mem_cons] at hx
      rcases hx with rfl | hx
      · exact ⟨rfl, hm, le_refl m⟩
      · refine ih _ ?_ x hx
        rw [Nat.mul_add] at hf
        omega
    · by_cases h0 : ticks > 0
      · simp [splitTicks, h, h0] at hx
        subst hx
        exact ⟨rfl, h0, by simpa using h⟩
      · simp [splitTicks, h, h0] at hx

/-- The items of one entry: its level, legal lengths (rules R93, R166). -/
theorem itemsOf_legal {m : Nat} (hm : 1 ≤ m) (rate : Nat) (e : Duration) :
    ∀ x ∈ itemsOf rate m e, x.level = levelOf e ∧ 1 ≤ x.ticks ∧ x.ticks ≤ m := by
  refine splitTicks_legal hm _ _ _ ?_
  have := Nat.lt_mul_div_succ (ticksOf rate e) (show 0 < m by omega)
  omega

/-- Every item of a submission is legal (rule R29). -/
theorem toItems_legal {m : Nat} (hm : 1 ≤ m) (rate : Nat) (d : List Duration) :
    ∀ x ∈ toItems rate m d, 1 ≤ x.ticks ∧ x.ticks ≤ m := by
  intro x hx
  obtain ⟨e, -, hx⟩ := List.mem_flatMap.1 hx
  exact (itemsOf_legal hm rate e x hx).2

/-- A send reconfigures once or not at all (rule R158). -/
theorem State.reconfigureIfNeeded_cases (s : State) (f : BitVec 32) :
    (s.curCarrier = some f ∧ s.reconfigureIfNeeded f = s) ∨
      (s.curCarrier ≠ some f ∧ s.reconfigureIfNeeded f = s.reconfigure f) := by
  by_cases h : s.curCarrier = some f <;> simp [State.reconfigureIfNeeded, State.carrierDiffers, h]

/-- A carrier period is at most a second (rule R159). -/
theorem carrierPeriod_le (f : Nat) : carrierPeriod f ≤ 1000000 := by
  unfold carrierPeriod
  rcases Nat.lt_or_ge f 2 with h | h
  · interval_cases f <;> norm_num
  · have : (1000000 + f / 2) / f ≤ 1000000 := by
      rw [Nat.div_le_iff_le_mul_add_pred (by omega)]
      omega
    omega

/-- An on-time is at most a second (rule R159). -/
theorem carrierOn_le (f : Nat) {duty : Nat} (h : duty ≤ 100) : carrierOn f duty ≤ 1000000 := by
  unfold carrierOn
  split
  · omega
  · have := Nat.mul_le_mul (carrierPeriod_le f) h
    omega

/-- An off-time is at most a second (rule R159). -/
theorem carrierOff_le (f duty : Nat) : carrierOff f duty ≤ 1000000 := by
  unfold carrierOff
  have := carrierPeriod_le f
  split <;> omega

end Sys2Proof.Machine
end

