-- ==== Sys2Proof/Laws/PerInstr.lean ====
section
/-! SUPPORT. Per instruction: the length of an instruction's words is the one its header announces (rule R101). -/

namespace Sys2Proof.Laws.EncodedLength

/-- A well-formed instruction's header word is followed by exactly the operand words the header announces. -/
def Statement (i : Instr) : Prop :=
  i.wellFormed = true → ∃ w ws, encode i = w :: ws ∧ ws.length = (Header.ofWord w).operandCount

theorem encNec (nbits : BitVec 16) (address command : Word) : Statement (.encNec nbits address command) :=
  fun _ => ⟨_, _, rfl, by simp [Instr.operandWords, Instr.header, Header.operandCount]⟩
theorem encLg (nbits : BitVec 16) (address data : Word) : Statement (.encLg nbits address data) :=
  fun _ => ⟨_, _, rfl, by simp [Instr.operandWords, Instr.header, Header.operandCount]⟩
theorem encPanasonic (nbits : BitVec 16) (address data : Word) : Statement (.encPanasonic nbits address data) :=
  fun _ => ⟨_, _, rfl, by simp [Instr.operandWords, Instr.header, Header.operandCount]⟩
theorem raw (carrier : Word) (entries : List Duration) : Statement (.raw carrier entries) := by
  intro h
  refine ⟨_, _, rfl, ?_⟩
  simp only [Instr.wellFormed, decide_eq_true_eq] at h
  simp [Instr.operandWords, Instr.header, Header.operandCount, Nat.add_comm]
  omega
theorem repeatSeq (n : BitVec 16) (gap : Word) : Statement (.repeatSeq n gap) :=
  fun _ => ⟨_, _, rfl, by simp [Instr.operandWords, Instr.header, Header.operandCount]⟩
theorem len : Statement .len :=
  fun _ => ⟨_, _, rfl, by simp [Instr.operandWords, Instr.header, Header.operandCount]⟩
theorem txConfig (duty : BitVec 8) (pin : BitVec 16) : Statement (.txConfig duty pin) :=
  fun _ => ⟨_, _, rfl, by simp [Instr.operandWords, Instr.header, Header.operandCount]⟩
theorem txSetup : Statement .txSetup :=
  fun _ => ⟨_, _, rfl, by simp [Instr.operandWords, Instr.header, Header.operandCount]⟩
theorem txSend : Statement .txSend :=
  fun _ => ⟨_, _, rfl, by simp [Instr.operandWords, Instr.header, Header.operandCount]⟩
theorem swCreate (name : BitVec 16) : Statement (.swCreate name) :=
  fun _ => ⟨_, _, rfl, by simp [Instr.operandWords, Instr.header, Header.operandCount]⟩
theorem swOn (handle : BitVec 16) : Statement (.swOn handle) :=
  fun _ => ⟨_, _, rfl, by simp [Instr.operandWords, Instr.header, Header.operandCount]⟩
theorem swOff (handle : BitVec 16) : Statement (.swOff handle) :=
  fun _ => ⟨_, _, rfl, by simp [Instr.operandWords, Instr.header, Header.operandCount]⟩
theorem rxSetup (pin : BitVec 16) : Statement (.rxSetup pin) :=
  fun _ => ⟨_, _, rfl, by simp [Instr.operandWords, Instr.header, Header.operandCount]⟩
theorem rxReg (mode : DecMode) (vendor : BitVec 4) (nbits : BitVec 16) (expAddress expData : Word) :
    Statement (.rxReg mode vendor nbits expAddress expData) :=
  fun _ => ⟨_, _, rfl, by simp [Instr.operandWords, Instr.header, Header.operandCount]⟩
theorem rxDispatch : Statement .rxDispatch :=
  fun _ => ⟨_, _, rfl, by simp [Instr.operandWords, Instr.header, Header.operandCount]⟩
theorem evEdge (level : Level) (t : Word) : Statement (.evEdge level t) :=
  fun _ => ⟨_, _, rfl, by simp [Instr.operandWords, Instr.header, Header.operandCount]⟩
theorem evIdle (t : Word) : Statement (.evIdle t) :=
  fun _ => ⟨_, _, rfl, by simp [Instr.operandWords, Instr.header, Header.operandCount]⟩
theorem evPlay : Statement .evPlay :=
  fun _ => ⟨_, _, rfl, by simp [Instr.operandWords, Instr.header, Header.operandCount]⟩
theorem evResume : Statement .evResume :=
  fun _ => ⟨_, _, rfl, by simp [Instr.operandWords, Instr.header, Header.operandCount]⟩

end Sys2Proof.Laws.EncodedLength
end

