-- ==== Sys2Proof/Laws/Waveform.lean ====
section
/-! SUPPORT. How long spans and traces last: the small facts later proofs cite instead of unfolding (rule R94). -/

namespace Sys2Proof.Machine

/-- A span timed by the processor lasts its length in microseconds (rule R94). -/
@[simp] theorem Span.us_ten (level : Level) (len : Nat) : Span.us { level := level, len := len, per10us := 10 } = len := by
  simp [Span.us]

/-- An empty span lasts no time, whatever its unit (rule R36). -/
theorem Span.us_empty {sp : Span} (h : sp.len = 0) : sp.us = 0 := by simp [Span.us, h]

/-- The duration of a span, multiplied out (rule R94). -/
theorem Span.us_mul {sp : Span} (h : sp.per10us ≠ 0) : sp.us * sp.per10us = sp.len * 10 := by
  rw [Span.us, div_mul_cancel₀]
  exact_mod_cast h

/-- Two lengths in one unit last the sum of their durations (rules R36, R94). -/
theorem Span.us_add (level : Level) (m n unit : Nat) :
    Span.us { level := level, len := m + n, per10us := unit } =
      Span.us { level := level, len := m, per10us := unit } + Span.us { level := level, len := n, per10us := unit } := by
  simp only [Span.us]
  push_cast
  ring

@[simp] theorem traceUs_nil : traceUs [] = 0 := rfl

@[simp] theorem traceUs_cons (sp : Span) (trace : List Span) : traceUs (sp :: trace) = sp.us + traceUs trace := by
  simp [traceUs]

@[simp] theorem traceUs_append (a b : List Span) : traceUs (a ++ b) = traceUs a + traceUs b := by simp [traceUs]

/-- Spans of one unit last as long as one span of their summed length (rule R94). -/
theorem traceUs_one_unit {unit : Nat} {trace : List Span} (h : ∀ sp ∈ trace, sp.per10us = unit) :
    traceUs trace = ((trace.map (·.len)).sum : Nat) * 10 / unit := by
  induction trace with
  | nil => simp
  | cons sp rest ih =>
    rw [traceUs_cons, ih fun x hx => h x (by simp [hx]), Span.us, h sp (by simp)]
    push_cast [List.map_cons, List.sum_cons]
    ring

end Sys2Proof.Machine
end

