-- ==== Sys2Proof/Tests/Slice0.lean ====
section
/-! SUPPORT. Tests: an ill-formed term refused, the decoding of words written out from rule R103's table, single steps with the
expected values of spec/95_test_vectors.md, and a witness for the hypotheses of every statement. -/

namespace Sys2Proof.Tests

open Sys2Proof Sys2Proof.Machine Sys2Proof.Claims

/-! ### Well-formedness -/

/-- The one check of `Instr.wellFormed`. -/
theorem raw_wellFormed (c : Word) (n : Nat) : (Instr.raw c (List.replicate n 1)).wellFormed = decide (n < 2 ^ 16) := by
  rw [Instr.wellFormed, List.length_replicate]

/-- 65536 entries do not fit `RAW`'s 16-bit count (rules R100, R103). -/
theorem test_wf_raw_too_long : (Instr.raw 0 (List.replicate 65536 1)).wellFormed = false :=
  (raw_wellFormed 0 65536).trans (by decide)

/-- 65535 entries do. -/
theorem test_wf_raw_longest : (Instr.raw 0 (List.replicate 65535 1)).wellFormed = true :=
  (raw_wellFormed 0 65535).trans (by decide)

/-! ### Decoding: one word for each row of rule R103 (spec/95_test_vectors.md) -/

theorem test_decode_encNec : decode [0x01010020, 4, 8] = .instr (.encNec 32 4 8) [] := by decide
theorem test_decode_encLg : decode [0x0102001C, 0, 0x088C0051] = .instr (.encLg 28 0 0x088C0051) [] := by decide
theorem test_decode_encPanasonic :
    decode [0x01030030, 0x4004, 0x0100BCBD] = .instr (.encPanasonic 48 0x4004 0x0100BCBD) [] := by decide
theorem test_decode_raw :
    decode [0x02000003, 0, 0x3E8, 0xFFFFFE0C, 0x3E8, 0x12000000] =
      .instr (.raw 0 [1000, 0xFFFFFE0C, 1000]) [0x12000000] := by decide
theorem test_decode_repeat : decode [0x03000003, 0x9C40] = .instr (.repeatSeq 3 40000) [] := by decide
theorem test_decode_len : decode [0x04000000] = .instr .len [] := by decide
theorem test_decode_txConfig : decode [0x10210005] = .instr (.txConfig 33 5) [] := by decide
theorem test_decode_txSetup : decode [0x11000000] = .instr .txSetup [] := by decide
theorem test_decode_txSend : decode [0x12000000] = .instr .txSend [] := by decide
theorem test_decode_swCreate : decode [0x18000007] = .instr (.swCreate 7) [] := by decide
theorem test_decode_swOn : decode [0x19000001] = .instr (.swOn 1) [] := by decide
theorem test_decode_swOff : decode [0x1A000002] = .instr (.swOff 2) [] := by decide
theorem test_decode_rxSetup : decode [0x2000000E] = .instr (.rxSetup 14) [] := by decide
theorem test_decode_rxReg_exact : decode [0x21010020, 5, 8] = .instr (.rxReg .exact 1 32 5 8) [] := by decide
theorem test_decode_rxReg_dump :
    decode [0x21830030, 0xFFFFFFFF, 0xFFFFFFFF] = .instr (.rxReg .dump 3 48 0xFFFFFFFF 0xFFFFFFFF) [] := by decide
theorem test_decode_rxDispatch : decode [0x22000000] = .instr .rxDispatch [] := by decide
theorem test_decode_evEdge : decode [0x80010000, 0x38A4] = .instr (.evEdge true 14500) [] := by decide
theorem test_decode_evEdge_low : decode [0x80000000, 0x2710] = .instr (.evEdge false 10000) [] := by decide
theorem test_decode_evIdle : decode [0x81000000, 0xF6B9] = .instr (.evIdle 63161) [] := by decide
theorem test_decode_evPlay : decode [0x82000000] = .instr .evPlay [] := by decide
theorem test_decode_evResume : decode [0x83000000] = .instr .evResume [] := by decide

/-- V40, first list: no row has that operation. -/
theorem test_decode_undefined :
    ([0x00000000#32, 0x05000000, 0x13000000, 0x23000000, 0x84000000, 0xFF000000].map fun w => decode [w]) =
      List.replicate 6 (.illegal .undefinedOp []) := by decide

/-- V40, second list: a field that must be 0 is not. -/
theorem test_decode_nonzero_field :
    ([0x11000001#32, 0x12010000, 0x22000001, 0x18010007, 0x20010000].map fun w => decode [w]) =
      List.replicate 5 (.illegal .nonzeroField []) := by decide

/-- V2 and V7: the operand words of a rejected command are consumed (rule R101); `RX.REG` with bit 4 of `A` set (V35). -/
theorem test_decode_rejected_lengths :
    decode [0x01000020, 4, 8] = .illegal .reservedVendor [] ∧ decode [0x01040020, 4, 8, 9] = .illegal .reservedVendor [9] ∧
    decode [0x02010003, 0, 1, 2, 3] = .illegal .nonzeroField [] ∧ decode [0x21110020, 0, 0] = .illegal .nonzeroField [] ∧
    decode [0x02000003, 0, 1] = .truncated := by decide

/-- The assembler's operand order is not the header's (rule R109): `TX.CONFIG 5, 33` is `0x10210005`. -/
theorem test_assemble_txConfig : encode (AsmLine.txConfig 5 33).instr = [0x10210005] := by decide

/-- The address of an LG pseudo-instruction stands in the address word: the model's choice (assumption 25). -/
theorem test_assemble_lg_address : encInstr .lg 1 0xA5 8 = .encLg 8 1 0xA5 := rfl

/-- A `RAW` entry outside the signed 32-bit range is reduced: the model's choice (assumption 26). -/
theorem test_assemble_raw_range : (AsmLine.raw 0 [2 ^ 32 + 5]).instr = .raw 0 [5] := by decide

/-- `ENC.NEC 0x04, 0x08` with `nbits` left out (rule R109). -/
theorem test_assemble_encNec : encode (AsmLine.encNec 4 8 none).instr = [0x01010020, 4, 8] := by decide

/-! ### Single steps -/

/-- A next state, if there is one. -/
def after : Answer → Option State
  | .next t => some t
  | .fault _ => none
  | .refused _ => none

/-- Reset with the parameters of rule R6, both units set up. -/
def base (b : Backend) : State :=
  { State.resetWith (specConfig b) with txReady := true, rxReady := true, ticksPer10us := 80 }

/-- The sequence of program P3. -/
def p3Seq (n : BitVec 16) : PulseSeq := ⟨38000, [9000, 0xFFFFEE6C, 560], n, 1000⟩

/-- The items of one pass of it (V22). -/
def p3Items : List Item := [⟨true, 32767⟩, ⟨true, 32767⟩, ⟨true, 6466⟩, ⟨false, 32767⟩, ⟨false, 3233⟩, ⟨true, 4480⟩]

/-- A state with that sequence built. -/
def ready (b : Backend) (n : BitVec 16) : State := { base b with seq := p3Seq n }

/-- A peripheral playing one pass. -/
def playing (pos : Nat) : State := { ready .peripheral 1 with itemq := p3Items, txPos := pos, txBusy := true }

/-- A peripheral between the passes of a repeated send. -/
def paused (n : BitVec 16) : State := { ready .peripheral n with engActive := true, engSeq := p3Seq n, engRep := 1 }

/-- A receiver in the middle of a capture. -/
def capturing (buf : List (BitVec 32)) (last : Word) : State :=
  { base .peripheral with rxState := .capturing, capBuf := buf, lastEdge := last }

/-- A receiver with a completed capture and two decoders. -/
def captured (buf : List (BitVec 32)) : State :=
  { base .peripheral with
    rxState := .done, capBuf := buf, gen := 1, dec := [⟨.nec, 32, .exact, 4, 8⟩, ⟨.nec, 32, .dump, 0, 0⟩] }

/-- All eight slots in use. -/
def fullSlots : State := { ready .peripheral 1 with slots := List.replicate 8 ⟨p3Seq 1, 7⟩ }

/-- All eight decoder entries in use. -/
def fullDec : State := { base .peripheral with dec := List.replicate 8 ⟨.nec, 32, .exact, 4, 8⟩ }

/-- T1: the frame of `ENC.NEC 4, 8`. -/
theorem test_encNec_frame :
    (after (exec (.encNec 32 4 8) (base .bitbang))).map (fun t => (t.seq.durations.length, totalLength t.seq,
      [0, 27, 29, 59, 66].map fun k => t.seq.durations[k]?)) =
    some (67, 52160, [some (9000 : Duration), some (-560), some (-1690), some (-1690), some 560]) := by decide

/-- V2: NEC `nbits = 31`. -/
theorem test_encNec_nbits : exec (.encNec 31 4 8) (base .bitbang) = failed (base .bitbang) 1 := by rfl

/-- V1: `ENC.LG 1, 1`. -/
theorem test_encLg_short :
    (after (exec (.encLg 1 0 1) (base .bitbang))).map (·.seq) =
      some ⟨38000, [8000, -4000, 600, -1600, 600], 1, 0⟩ := by decide

/-- V2: LG address word not 0. -/
theorem test_encLg_address : exec (.encLg 32 1 0x20DF10EF) (base .bitbang) = failed (base .bitbang) 1 := by rfl

/-- T11: the frame of `ENC.PANASONIC 0x4004, 0x0100BCBD`. -/
theorem test_encPanasonic_frame :
    (after (exec (.encPanasonic 48 0x4004 0x0100BCBD) (base .bitbang))).map (fun t => (t.seq.carrier,
      totalLength t.seq, [3, 5, 97, 98].map fun k => t.seq.durations[k]?)) =
    some (35000, 60866, [some (-400 : Duration), some (-1244), some (-1244), some 502]) := by decide

/-- V2: Panasonic `nbits = 32`. -/
theorem test_encPanasonic_nbits :
    exec (.encPanasonic 32 0x4004 0x0100BCBD) (base .bitbang) = failed (base .bitbang) 1 := by rfl

/-- V7: a sequence may begin with a space. -/
theorem test_raw_space_first :
    (after (exec (.raw 38000 [0xFFFFFF9C, 200]) (base .bitbang))).map (·.seq) =
      some ⟨38000, [-100, 200], 1, 0⟩ := by decide

/-- V7: two marks in a row, a zero entry, and −2^31. -/
theorem test_raw_malformed :
    ([[100, 200], [100, 0], [0x80000000]].map fun d => (after (exec (.raw 38000 d) (base .bitbang))).map (·.status)) =
      List.replicate 3 (some 1) := by decide

/-- V8: `REPEAT 0, 5`. -/
theorem test_repeat_zero : exec (.repeatSeq 0 5) (ready .bitbang 1) = failed (ready .bitbang 1) 1 := by rfl

/-- T2: a second `REPEAT` replaces the first. -/
theorem test_repeat_replaces :
    (after (exec (.repeatSeq 2 40000) (ready .bitbang 3))).map (fun t => (t.seq.repeatCount, t.seq.repeatGap, t.status)) =
      some (2, 40000, 0) := by decide

/-- V8: the longest repetition of the sequence of T1. -/
theorem test_len_longest :
    (after (exec .len { base .bitbang with seq := ⟨38000, frameOf descNEC 0x00040008 32, 65535, 0xFFFFFFFF⟩ })).map
      (·.result) = some (some (.total 281469805016130)) := by decide

/-- P3, step 5. -/
theorem test_len_repeated :
    (after (exec .len (ready .peripheral 2))).map (·.result) = some (some (.total 29120)) := by decide

/-- V24: `TX.CONFIG 5, 33`. -/
theorem test_txConfig :
    (after (exec (.txConfig 33 5) { base .bitbang with curCarrier := some 38000 })).map
      (fun t => (t.txPin, t.carrierDuty, t.curCarrier, t.status)) = some (5, 33, none, 0) := by decide

/-- V24: duty 101; and busy (P3, step 16). -/
theorem test_txConfig_errors :
    exec (.txConfig 101 5) (base .bitbang) = failed (base .bitbang) 1 ∧
      exec (.txConfig 33 5) (playing 0) = failed (playing 0) 2 := ⟨rfl, rfl⟩

/-- V23: the tick rate. -/
theorem test_txSetup_rate :
    (after (exec .txSetup (State.resetWith (specConfig .peripheral)))).map (fun t => (t.ticksPer10us, t.txReady)) =
      some (80, true) := by decide

/-- V23: 1 MHz over 11 gives no tick; a second setup. -/
theorem test_txSetup_errors :
    (after (exec .txSetup (State.resetWith { specConfig .peripheral with baseClockHz := 1000000, clockDivider := 11 }))).map
      (fun t => (t.status, t.txReady)) = some (1, false) ∧
    exec .txSetup (base .bitbang) = failed (base .bitbang) 1 := ⟨by decide, rfl⟩

/-- P3, step 6: the first step of a repeated peripheral send. -/
theorem test_txSend_peripheral :
    (after (exec .txSend (ready .peripheral 2))).map (fun t => (t.reconfCount, t.onUs, t.offUs, t.itemq)) =
      some (1, 13, 13, p3Items) ∧
    (after (exec .txSend (ready .peripheral 2))).map (fun t => (t.txBusy, t.engRep, t.engActive, t.engSeq)) =
      some (true, 1, true, p3Seq 2) := by decide

/-- V8: `REPEAT 2, 0` bit-banged: the gap span stands between the passes, of length 0. -/
theorem test_txSend_bitbang :
    (after (exec .txSend { ready .bitbang 2 with seq := ⟨0, [1000, -500], 2, 0⟩ })).map (·.txTrace) =
      some [⟨true, 1000, 10⟩, ⟨false, 500, 10⟩, ⟨false, 0, 10⟩, ⟨true, 1000, 10⟩, ⟨false, 500, 10⟩] := by decide

/-- P4, step 3. -/
theorem test_swCreate_handle :
    (after (exec (.swCreate 7) (ready .bitbang 1))).map (fun t => (t.result, t.slots)) =
      some (some (.handle 0), [⟨p3Seq 1, 7⟩]) := by decide

/-- P4: the ninth. -/
theorem test_swCreate_full : exec (.swCreate 9) fullSlots = failed fullSlots 1 := by rfl

/-- V25: `SW.ON 0` before `TX.SETUP`. -/
theorem test_swOn_not_setup :
    (after (exec (.swOn 0) { fullSlots with txReady := false })).map (·.status) = some 3 := by decide

/-- P4, step 8: the stored copy is sent, whatever `SEQ` holds. -/
theorem test_swOn_copy :
    (after (exec (.swOn 0) { base .bitbang with slots := [⟨⟨38000, [8000, -4000, 600], 1, 0⟩, 7⟩] })).map (·.txTrace) =
      some [⟨true, 8000, 10⟩, ⟨false, 4000, 10⟩, ⟨true, 600, 10⟩] := by decide

/-- P4, steps 9 and 12. -/
theorem test_swOff :
    (after (exec (.swOff 7) fullSlots)).map (·.status) = some 0 ∧
      (after (exec (.swOff 8) fullSlots)).map (·.status) = some 1 := by decide

/-- P2, step 4. -/
theorem test_rxSetup :
    (after (exec (.rxSetup 14) (State.resetWith (specConfig .bitbang)))).map (fun t => (t.rxPin, t.rxReady, t.rxState)) =
      some (14, true, .idle) := by decide

/-- V35: `DUMP PANASONIC 48`, operands unchecked. -/
theorem test_rxReg_dump :
    (after (exec (.rxReg .dump 3 48 0xFFFFFFFF 0xFFFFFFFF) (base .bitbang))).map (fun t => (t.result, t.dec.length)) =
      some (some (.index 0), 1) := by decide

/-- V35: vendor 0, NEC `nbits = 16`, LG data too large, a ninth registration. -/
theorem test_rxReg_errors :
    exec (.rxReg .exact 0 32 0 0) (base .bitbang) = failed (base .bitbang) 1 ∧
    exec (.rxReg .exact 1 16 4 8) (base .bitbang) = failed (base .bitbang) 1 ∧
    exec (.rxReg .exact 2 8 0 0x100) (base .bitbang) = failed (base .bitbang) 1 ∧
    exec (.rxReg .exact 1 32 4 8) fullDec = failed fullDec 1 := ⟨rfl, rfl, rfl, rfl⟩

/-- V30: an empty capture dispatched. -/
theorem test_rxDispatch_empty :
    (after (exec .rxDispatch (captured []))).map (fun t => (t.result, t.rxLog, t.rxState)) =
      some (some (.dispatched true), [⟨1, [.noMatch, .raw []]⟩], .idle) := by decide

/-- T1: the NEC frame dispatched. -/
theorem test_rxDispatch_match :
    (after (exec .rxDispatch (captured (captureOf (frameOf descNEC 0x00040008 32))))).map (·.rxLog) =
      some [⟨1, [.matched, .decoded .nec 4 8 32]⟩] := by decide

/-- V32: the gap over a wrap of the timestamp. -/
theorem test_evEdge_wrap :
    (after (exec (.evEdge false 0x2228) (capturing [] 0xFFFFFF00))).map (fun t => (t.capBuf, t.lastEdge)) =
      some ([9000], 0x2228) := by decide

/-- V31: a gap of exactly the threshold is stored, one past it ends the capture. -/
theorem test_evEdge_threshold :
    (after (exec (.evEdge true 276200) (capturing [560] 266200))).map (fun t => (t.capBuf, t.rxState)) =
      some ([560, 10000], .capturing) ∧
    (after (exec (.evEdge false 276201) (capturing [560] 266200))).map (fun t => (t.capBuf, t.rxState, t.gen, t.lastEdge)) =
      some ([560], .done, 1, 266200) := by decide

/-- V30: `EV.IDLE` at a gap of 10000 is not enabled, at 10001 it is. -/
theorem test_evIdle_threshold :
    exec (.evIdle 10100) (capturing [] 100) = .refused .idleNotEnabled ∧
      (after (exec (.evIdle 10101) (capturing [] 100))).map (fun t => (t.rxState, t.gen)) = some (.done, 1) :=
  ⟨rfl, by decide⟩

/-- P3, steps 7 and 12: the first item, and the last. -/
theorem test_evPlay :
    (after (exec .evPlay (playing 0))).map (fun t => (t.txTrace, t.txPos, t.txOut, t.txBusy)) =
      some ([⟨true, 32767, 80⟩], 1, true, true) ∧
    (after (exec .evPlay (playing 5))).map (fun t => (t.txTrace, t.txPos, t.txOut, t.txBusy, t.itemq)) =
      some ([⟨true, 4480, 80⟩], 0, false, false, []) := by decide

/-- P3, step 13: the second of two passes. -/
theorem test_evResume :
    (after (exec .evResume (paused 2))).map (fun t => (t.txTrace, t.itemq, t.txBusy, t.engRep, t.engActive)) =
      some ([⟨false, 1000, 10⟩], p3Items, true, 2, false) := by decide

/-- T6, V13: window edges, and the tie clause at `TOL_PERCENT = 96`. -/
theorem test_classify :
    within 25 6749 9000 = false ∧ within 25 6750 9000 = true ∧ within 25 11250 9000 = true ∧ within 25 11251 9000 = false ∧
    classify 25 1267 descNEC = none ∧ classify 25 2112 descNEC = some true ∧ classify 25 700 descNEC = some false ∧
    classify 60 800 descNEC = some false ∧ classify 60 1125 descNEC = some true ∧ classify 96 1075 descLG = some true := by
  decide

/-- V20: half periods. -/
theorem test_carrier :
    (carrierOn 38000 33, carrierOff 38000 33) = (8, 18) ∧ (carrierOn 35000 50, carrierOff 35000 50) = (14, 15) ∧
    (carrierOn 455000 4, carrierOff 455000 4) = (0, 2) ∧ (carrierOn 2000000 50, carrierOff 2000000 50) = (0, 1) ∧
    (carrierOn 1 33, carrierOff 1 33) = (330000, 670000) ∧ (carrierOn 0 50, carrierOff 0 50) = (0, 0) := by decide

/-- V21: the wave of a cut last cycle; an on-time of the whole period. -/
theorem test_carrierWave :
    carrierWave 13 13 30 = [⟨true, 13, 10⟩, ⟨false, 13, 10⟩, ⟨true, 4, 10⟩] ∧ carrierWave 13 13 13 = [⟨true, 13, 10⟩] ∧
      observed (carrierWave 26 0 60) = [⟨true, 60, 10⟩] := by decide

/-- P3 and R94: an item of 4480 ticks lasts 560 µs, the gap 1000 µs; the two passes with the gap between them and the last item
(14 spans of two units) last 29120 + 500 µs. -/
theorem test_spanUs :
    Span.us ⟨true, 4480, 80⟩ = 560 ∧ Span.us ⟨false, 1000, 10⟩ = 1000 ∧
      traceUs [⟨true, 72000, 80⟩, ⟨false, 36000, 80⟩, ⟨true, 4480, 80⟩, ⟨false, 1000, 10⟩, ⟨true, 72000, 80⟩,
        ⟨false, 36000, 80⟩, ⟨true, 8480, 80⟩] = 29620 := by norm_num [Span.us]

/-- V22: entries shorter than a tick take no item. -/
theorem test_toItems : toItems 5 32767 [1, -1, 3] = [⟨true, 1⟩] ∧ toItems 80 32767 [4096] = [⟨true, 32767⟩, ⟨true, 1⟩] := by
  decide

/-- The word the host places is the one the next step runs: `ENC.NEC` with its operand words, and `LEN`. -/
theorem test_withFetchWord :
    step (State.reset.withFetchWord 96 0x000000080000000401010020) = exec (.encNec 32 4 8) State.reset ∧
      step (State.reset.withFetchWord 32 0x04000000) = exec .len State.reset := ⟨rfl, rfl⟩

/-- A short row's operand words are zeros. -/
theorem test_decodeTableWord :
    decodeTableWord 32 0x02000002 = some (.raw 0 [0, 0]) ∧ decodeTableWord 64 0x0000000500000000 = none := by decide

/-! ### States that meet the invariant -/

theorem inv_base (b : Backend) : (base b).Inv := by cases b <;> exact inv_of_check (by decide) (by decide)
theorem inv_ready : (ready .peripheral 2).Inv := inv_of_check (by decide) (by decide)
theorem inv_ready_one : (ready .peripheral 1).Inv := inv_of_check (by decide) (by decide)
theorem inv_ready_bitbang : (ready .bitbang 3).Inv := inv_of_check (by decide) (by decide)
theorem inv_playing : (playing 5).Inv := inv_of_check (by decide) (by decide)
theorem inv_paused : (paused 2).Inv := inv_of_check (by decide) (by decide)
theorem inv_capturing : (capturing [560, 10000] 100).Inv := inv_of_check (by decide) (by decide)
theorem inv_captured : (captured [560]).Inv := inv_of_check (by decide) (by decide)
theorem inv_fullSlots : fullSlots.Inv := inv_of_check (by decide) (by decide)
theorem inv_fullDec : fullDec.Inv := inv_of_check (by decide) (by decide)

/-! ### A witness for the hypotheses of every statement -/

theorem witness_DecodeEncodeRoundTrip : (Instr.raw 0 (List.replicate 65535 1)).wellFormed = true := test_wf_raw_longest

theorem witness_EncodeDecodeRoundTrip :
    ∃ ws i rest, decode ws = .instr i rest ∧ ws.length = 6 := ⟨_, _, _, test_decode_raw, rfl⟩

/-- One word short, exactly enough, and the longest command. -/
theorem witness_CommandLengthFromHeader :
    [1, 2, 3].length < wordsAfter 0x02000003 ∧ wordsAfter 0x02000003 ≤ [1, 2, 3, 4].length ∧
      wordsAfter 0x0200FFFF = 65536 ∧ wordsAfter 0x84000000 ≤ ([] : List Word).length := by decide

theorem witness_DecodeFollowsOpcodeTable :
    ((Opc.rxReg, 0xFF700000, 0x21000000) : Opc × Word × Word) ∈ opcodeRows ∧
      wordsAfter 0x218F0020 ≤ [1, 2].length ∧ 0x218F0020#32 &&& 0xFF700000 = 0x21000000 ∧
      wordsAfter 0x21100020 ≤ [1, 2].length ∧ 0x21100020#32 &&& 0xFF700000 ≠ 0x21000000 := by decide

/-- A host free and one held. -/
theorem witness_IllegalCommandRaisesInvalidArgument :
    ∃ (s s' : State) (w : Word) (ws : List Word), s.stream = w :: ws ∧ s'.stream = w :: ws ∧ wordsAfter w ≤ ws.length ∧
      (∀ row ∈ opcodeRows, w &&& row.2.1 ≠ row.2.2) ∧ s.engActive = false ∧ s'.engActive = true :=
  ⟨{ base .bitbang with stream := [0x21110020, 0, 0] }, { paused 2 with stream := [0x21110020, 0, 0] }, 0x21110020, [0, 0],
    rfl, rfl, by decide, List.forall_iff_forall_mem.1 (by decide), rfl, rfl⟩

theorem witness_StepRunsDecodedInstruction :
    (∃ (s : State) (i : Instr) (rest : List Word), decode s.stream = .instr i rest) ∧
    (∃ s : State, decode s.stream = .truncated) ∧ (∃ s : State, s.stream = []) :=
  ⟨⟨{ base .bitbang with stream := [0x04000000] }, .len, [], by decide⟩,
    ⟨{ base .bitbang with stream := [0x03000003] }, by decide⟩, ⟨base .bitbang, rfl⟩⟩

theorem witness_StreamRunsInstructionsInOrder :
    ∃ (is : List Instr) (s t : State) (rest : List Word), is.length = 3 ∧ (∀ i ∈ is, i.wellFormed = true) ∧
      execAll is { s with stream := rest } = .next t :=
  ⟨[.len, .raw 0 [5], .evEdge true 7], base .bitbang, _, [1], rfl, by simp [Instr.wellFormed], rfl⟩

theorem witness_ResetValues : ∃ c s, s = State.resetWith c := ⟨specConfig .bitbang, _, rfl⟩

theorem witness_ResetMeetsInvariant : ∃ c : Config, c.Valid := ⟨_, (inv_base .bitbang).cfgValid⟩

theorem witness_StepKeepsInvariant : ∃ s t : State, s.Inv ∧ step s = .next t ∧ t ≠ s :=
  ⟨{ paused 2 with stream := [0x83000000] }, _, inv_of_check (by decide) (by decide), rfl, by decide⟩

theorem witness_NoFaultUnderInvariant : (playing 5).Inv ∧ (paused 2).Inv ∧ (captured [560]).Inv :=
  ⟨inv_playing, inv_paused, inv_captured⟩

/-- Each history grows in some step. -/
theorem witness_HistoriesOnlyGrow :
    (∃ i s t, exec i s = .next t ∧ t.txTrace ≠ s.txTrace) ∧ (∃ i s t, exec i s = .next t ∧ t.rxLog ≠ s.rxLog) ∧
    (∃ i s t, exec i s = .next t ∧ t.slots ≠ s.slots) ∧ (∃ i s t, exec i s = .next t ∧ t.dec ≠ s.dec) :=
  ⟨⟨.evPlay, playing 0, _, rfl, by decide⟩, ⟨.rxDispatch, captured [560], _, rfl, by decide⟩,
    ⟨.swCreate 7, ready .bitbang 1, _, rfl, by decide⟩, ⟨.rxReg .exact 1 32 4 8, base .bitbang, _, rfl, by decide⟩⟩

theorem witness_ConfigurationNeverChanges : ∃ s t, step s = .next t :=
  ⟨{ base .bitbang with stream := [0x04000000] }, _, rfl⟩

theorem witness_StatusWrittenByCommandsOnly :
    (∃ i s t, exec i s = .next t ∧ agentOf i = .host) ∧ (∃ i s t, exec i s = .next t ∧ agentOf i ≠ .host) :=
  ⟨⟨.len, base .bitbang, _, rfl, rfl⟩, ⟨.evPlay, playing 0, _, rfl, by decide⟩⟩

theorem witness_FailedCommandChangesOnlyStatus :
    ∃ i s t, agentOf i = .host ∧ exec i s = .next t ∧ t.status ≠ 0 := ⟨.swCreate 9, fullSlots, _, rfl, rfl, by decide⟩

theorem witness_EnabledExactlyAsTable : (ready .peripheral 2).Inv ∧ (playing 5).Inv ∧ (paused 2).Inv ∧
    (capturing [560, 10000] 100).Inv := ⟨inv_ready, inv_playing, inv_paused, inv_capturing⟩

/-- Each buffer is written by some step. -/
theorem witness_BuffersHaveTheirWriters :
    (∃ i s t, exec i s = .next t ∧ t.seq ≠ s.seq) ∧ (∃ i s t, exec i s = .next t ∧ t.slots ≠ s.slots) ∧
    (∃ i s t, exec i s = .next t ∧ t.engSeq ≠ s.engSeq) ∧ (∃ i s t, exec i s = .next t ∧ t.itemq ≠ s.itemq) ∧
    (∃ i s t, exec i s = .next t ∧ t.capBuf ≠ s.capBuf) ∧ (∃ i s t, exec i s = .next t ∧ t.dec ≠ s.dec) ∧
    (∃ i s t, exec i s = .next t ∧ t.txTrace ≠ s.txTrace) ∧ (∃ i s t, exec i s = .next t ∧ t.rxLog ≠ s.rxLog) :=
  ⟨⟨.raw 0 [5], base .bitbang, _, rfl, by decide⟩, ⟨.swCreate 7, ready .bitbang 1, _, rfl, by decide⟩,
    ⟨.txSend, ready .peripheral 2, _, rfl, by decide⟩, ⟨.evPlay, playing 5, _, rfl, by decide⟩,
    ⟨.rxDispatch, captured [560], _, rfl, by decide⟩, ⟨.rxReg .exact 1 32 4 8, base .bitbang, _, rfl, by decide⟩,
    ⟨.evResume, paused 2, _, rfl, by decide⟩, ⟨.rxDispatch, captured [560], _, rfl, by decide⟩⟩

theorem witness_TransmitAndReceiveAreSeparate :
    (∃ i s t, exec i s = .next t ∧
      i.header.opc ∉ [.ok .rxSetup, .ok .rxReg, .ok .rxDispatch, .ok .evEdge, .ok .evIdle]) ∧
    (∃ i s t, exec i s = .next t ∧
      i.header.opc ∈ [.ok .rxSetup, .ok .rxReg, .ok .rxDispatch, .ok .evEdge, .ok .evIdle]) :=
  ⟨⟨.txSend, ready .peripheral 2, _, rfl, by decide⟩, ⟨.rxDispatch, captured [560], _, rfl, by decide⟩⟩

/-- The NEC descriptor with the bit in the mark, least significant bit first, no stop mark. -/
def otherDesc : Descriptor := { descNEC with bitInMark := true, msbFirst := false, hasStop := false }

theorem witness_FrameLayout :
    (descNEC.Valid ∧ ∃ F, encodeFrame descNEC 0xFFFF 0 32 = some F) ∧
      (otherDesc.Valid ∧ otherDesc.bitInMark = true ∧ ∃ F, encodeFrame otherDesc 0 0xFFFF 32 = some F) :=
  ⟨⟨desc_valid_of_check (by decide), _, rfl⟩, desc_valid_of_check (by decide), rfl, _, rfl⟩

/-- The largest fields, and one past them. -/
theorem witness_EncNecBuildsItsFrame :
    ∃ s : State, s.engActive = false ∧ s.cfg.nec = descNEC ∧
      ((32#16).toNat = 32 ∧ (0xFFFF#32).toNat < 2 ^ 16 ∧ (0xFFFF#32).toNat < 2 ^ 16) ∧
      ¬((32#16).toNat = 32 ∧ (0x10000#32).toNat < 2 ^ 16 ∧ (0xFFFF#32).toNat < 2 ^ 16) :=
  ⟨base .bitbang, rfl, rfl, by decide, by decide⟩

theorem witness_EncLgBuildsItsFrame :
    ∃ s : State, s.engActive = false ∧ s.cfg.lg = descLG ∧
      (1 ≤ (32#16).toNat ∧ (32#16).toNat ≤ 32 ∧ 0#32 = 0 ∧ (0xFFFFFFFF#32).toNat < 2 ^ (32#16).toNat) ∧
      (1 ≤ (1#16).toNat ∧ (1#16).toNat ≤ 32 ∧ 0#32 = 0 ∧ (1#32).toNat < 2 ^ (1#16).toNat) ∧
      ¬(1 ≤ (1#16).toNat ∧ (1#16).toNat ≤ 32 ∧ 0#32 = 0 ∧ (2#32).toNat < 2 ^ (1#16).toNat) :=
  ⟨base .bitbang, rfl, rfl, by decide, by decide, by decide⟩

theorem witness_EncPanasonicBuildsItsFrame :
    ∃ s : State, s.engActive = false ∧ s.cfg.panasonic = descPanasonic ∧
      ((48#16).toNat = 48 ∧ (0xFFFF#32).toNat < 2 ^ 16) ∧ ¬((47#16).toNat = 48 ∧ (0xFFFF#32).toNat < 2 ^ 16) :=
  ⟨base .bitbang, rfl, rfl, by decide, by decide⟩

theorem witness_EncoderOutputsAlternate :
    (base .bitbang).Inv ∧ (base .bitbang).engActive = false ∧
      (((base .bitbang).cfg.desc .lg).nbitsMin ≤ (1#16).toNat ∧ (1#16).toNat ≤ ((base .bitbang).cfg.desc .lg).nbitsMax ∧
        (0#32).toNat < 2 ^ ((base .bitbang).cfg.desc .lg).addrBits ∧
        (1#32).toNat < 2 ^ ((1#16).toNat - ((base .bitbang).cfg.desc .lg).addrBits)) ∧
      ¬(2#32).toNat < 2 ^ ((1#16).toNat - ((base .bitbang).cfg.desc .lg).addrBits) :=
  ⟨inv_base _, rfl, by decide, by decide⟩

/-- Room for exactly three entries: three are taken, four are not. -/
def tightState : State := { base .bitbang with cfg := { specConfig .bitbang with seqCapacity := 3 } }

theorem witness_RawTakesExactlyWellFormedSequences :
    ∃ (s : State) (d d' : List Duration), s.engActive = false ∧
      (d.length ≤ s.cfg.seqCapacity ∧ (∀ e ∈ d, e.toInt ≠ 0 ∧ e.toInt ≠ -2 ^ 31) ∧
        (∀ (k : Nat) (e f : Duration), d[k]? = some e → d[k + 1]? = some f → (0 < e.toInt ↔ f.toInt < 0))) ∧
      ¬d'.length ≤ s.cfg.seqCapacity := by
  refine ⟨tightState, [-7, 5, 0x80000001], [1, -1, 1, -1], rfl, ⟨by decide, ?_, ?_⟩, by decide⟩
  · simp
  · intro k e f he hf
    rcases k with _ | _ | _ | k <;> simp_all
    · subst he; subst hf; decide
    · subst he; subst hf; decide

theorem witness_RepeatReplacesRepeatFields :
    ∃ s : State, s.engActive = false ∧ (0#16).toNat = 0 ∧ (1#16).toNat ≠ 0 ∧ (65535#16).toNat ≠ 0 :=
  ⟨ready .bitbang 3, rfl, by decide⟩

theorem witness_LenReturnsTotalLength : (ready .bitbang 3).Inv ∧ (ready .bitbang 3).engActive = false :=
  ⟨inv_ready_bitbang, rfl⟩

theorem witness_BuildersAreIdempotent :
    (∃ s t, (Instr.repeatSeq 3 9).header.opc = .ok .repeatSeq ∧ exec (.repeatSeq 3 9) s = .next t ∧ t ≠ s) ∧
      ∃ s t, (Instr.txConfig 33 5).header.opc = .ok .txConfig ∧ exec (.txConfig 33 5) s = .next t ∧ t ≠ s :=
  ⟨⟨ready .bitbang 1, _, by decide, rfl, by decide⟩, ⟨base .bitbang, _, by decide, rfl, by decide⟩⟩

theorem witness_DecodeOfEncodeIsTheCommand :
    (descLG.Valid ∧ descLG.bitZeroUs ≠ descLG.bitOneUs ∧ descLG.nbitsMin ≤ 1 ∧ 1 ≤ descLG.nbitsMax ∧
      0 < 2 ^ descLG.addrBits ∧ 1 < 2 ^ (1 - descLG.addrBits)) ∧
    (otherDesc.Valid ∧ otherDesc.bitZeroUs ≠ otherDesc.bitOneUs ∧ otherDesc.nbitsMin ≤ 32 ∧ 32 ≤ otherDesc.nbitsMax ∧
      0xFFFF < 2 ^ otherDesc.addrBits ∧ 0xFFFF < 2 ^ (32 - otherDesc.addrBits)) :=
  ⟨⟨desc_valid_of_check (by decide), by decide⟩, desc_valid_of_check (by decide), by decide⟩

theorem witness_ToleranceEdgesAreInside : (99 ≤ 99 ∧ 1 ≤ 1) ∧ (0 ≤ 99 ∧ 1 ≤ 9000) := by decide

theorem witness_ClassifyNearestWithinTolerance :
    classify 96 1075 descLG = some true ∧ within 96 1075 descLG.bitZeroUs = true ∧ classify 96 1074 descLG = some false ∧
      classify 25 701 descNEC = none := by decide

/-- Different bit marks, a different stop mark, one entry more. -/
theorem witness_DecodeReadsOnlyHeaderAndBits :
    ∃ x y : List (BitVec 32), x ≠ y ∧ 2 + 2 * 1 + descLG.hasStop.toNat ≤ x.length ∧
      2 + 2 * 1 + descLG.hasStop.toNat ≤ y.length ∧ x[0]? = y[0]? ∧ x[1]? = y[1]? ∧
      ∀ k < 1, x[if descLG.bitInMark then 2 + 2 * k else 3 + 2 * k]? = y[if descLG.bitInMark then 2 + 2 * k else 3 + 2 * k]? :=
  ⟨[8000, 4000, 600, 1600, 600], [8000, 4000, 1, 1600, 9999, 7], by decide, by decide, by decide, rfl, rfl, by decide⟩

theorem witness_NecAndLgDecodeEachOther :
    (∃ F, encodeFrame descNEC 0xFFFF 0 32 = some F) ∧ (∃ F, encodeFrame descLG 0 0x20DF10EF 32 = some F) ∧
      ∃ F, encodeFrame descPanasonic 0x4004 0x0100BCBD 48 = some F := ⟨⟨_, rfl⟩, ⟨_, rfl⟩, ⟨_, rfl⟩⟩

/-- Duty 0, 101, 1 and 100; idle and busy. -/
theorem witness_TxConfigChecksThenWrites :
    (base .bitbang).engActive = false ∧ (base .bitbang).txBusy = false ∧ (playing 0).engActive = false ∧
      (playing 0).txBusy = true ∧ (0#8).toNat = 0 ∧ 100 < (101#8).toNat ∧ 1 ≤ (1#8).toNat ∧ (100#8).toNat ≤ 100 := by
  decide

/-- A reset state of the peripheral backend with divider 255 and a given base clock. -/
def slowClock (hz : Nat) : State := State.resetWith { specConfig .peripheral with baseClockHz := hz, clockDivider := 255 }

/-- No tick: a divider of 255 over a base clock just below 25.5 MHz; one tick: at 25.5 MHz. -/
theorem witness_TxSetupOnce :
    (∃ s : State, s.Inv ∧ s.engActive = false ∧ s.txReady = true) ∧
    (∃ s : State, s.Inv ∧ s.engActive = false ∧ s.txReady = false ∧ s.cfg.backend = .bitbang) ∧
    (∃ s : State, s.Inv ∧ s.engActive = false ∧ s.txReady = false ∧ s.cfg.backend = .peripheral ∧
      s.cfg.baseClockHz / (s.clockDivider.toNat * 100000) = 0) ∧
    (∃ s : State, s.Inv ∧ s.engActive = false ∧ s.txReady = false ∧ s.cfg.backend = .peripheral ∧
      s.cfg.baseClockHz / (s.clockDivider.toNat * 100000) ≠ 0) :=
  ⟨⟨base .bitbang, inv_base _, rfl, rfl⟩,
    ⟨State.resetWith (specConfig .bitbang), inv_of_check (by decide) (by decide), rfl, rfl, rfl⟩,
    ⟨slowClock 25499999, inv_of_check (by decide) (by decide), rfl, rfl, rfl, by decide⟩,
    ⟨slowClock 25500000, inv_of_check (by decide) (by decide), rfl, rfl, rfl, by decide⟩⟩

/-- The four clauses, the empty sequence while busy among them. -/
theorem witness_SendChecksInOrder :
    (∃ s q, s.engActive = false ∧ Sends .txSend s q ∧ s.txReady = false) ∧
    (∃ s q, s.engActive = false ∧ Sends .txSend s q ∧ s.txReady = true ∧ q.durations = [] ∧ s.txBusy = true) ∧
    (∃ s q, s.engActive = false ∧ Sends (.swOn 7) s q ∧ s.txReady = true ∧ q.durations ≠ [] ∧
      s.cfg.backend = .peripheral ∧ s.txBusy = true) ∧
    (∃ s q t, s.engActive = false ∧ Sends .txSend s q ∧ s.cfg.backend = .bitbang ∧ exec .txSend s = .next t) :=
  ⟨⟨State.resetWith (specConfig .bitbang), _, rfl, .inl ⟨rfl, rfl⟩, rfl⟩,
    ⟨{ playing 0 with seq := PulseSeq.empty }, _, rfl, .inl ⟨rfl, rfl⟩, rfl, rfl, rfl⟩,
    ⟨{ playing 0 with slots := List.replicate 8 ⟨p3Seq 1, 7⟩ }, _, rfl, .inr ⟨7, _, rfl, rfl, rfl⟩, rfl, by decide, rfl, rfl⟩,
    ⟨ready .bitbang 3, _, _, rfl, .inl ⟨rfl, rfl⟩, rfl, rfl⟩⟩

theorem witness_BitbangSendEmitsEveryPass :
    ∃ s q, s.engActive = false ∧ Sends .txSend s q ∧ s.txReady = true ∧ q.durations ≠ [] ∧ s.cfg.backend = .bitbang ∧
      q.repeatCount = 3 := ⟨ready .bitbang 3, _, rfl, .inl ⟨rfl, rfl⟩, rfl, by decide, rfl, rfl⟩

/-- The carrier already configured; another one; an unmodulated sequence. -/
theorem witness_ReconfigureOnlyOnChange :
    (∃ s q, s.engActive = false ∧ Sends .txSend s q ∧ s.Inv ∧ s.txReady = true ∧ q.durations ≠ [] ∧ s.txBusy = false ∧
      s.curCarrier = some q.carrier) ∧
    (∃ s q, s.engActive = false ∧ Sends .txSend s q ∧ s.Inv ∧ s.txReady = true ∧ q.durations ≠ [] ∧ s.txBusy = false ∧
      s.curCarrier ≠ some q.carrier ∧ q.carrier.toNat ≠ 0) ∧
    (∃ s q, s.engActive = false ∧ Sends .txSend s q ∧ s.Inv ∧ s.txReady = true ∧ q.durations ≠ [] ∧ s.txBusy = false ∧
      s.curCarrier ≠ some q.carrier ∧ q.carrier.toNat = 0) :=
  ⟨⟨{ ready .peripheral 2 with curCarrier := some 38000, onUs := 13, offUs := 13 }, _, rfl, .inl ⟨rfl, rfl⟩,
      inv_of_check (by decide) (by decide), rfl, by decide, rfl, rfl⟩,
    ⟨ready .peripheral 2, _, rfl, .inl ⟨rfl, rfl⟩, inv_ready, rfl, by decide, rfl, by decide, by decide⟩,
    ⟨{ base .bitbang with seq := ⟨0, [1000], 1, 0⟩ }, _, rfl, .inl ⟨rfl, rfl⟩, inv_of_check (by decide) (by decide), rfl,
      by decide, rfl, by decide, by decide⟩⟩

theorem witness_PeripheralSendSubmits :
    (∃ s q, s.engActive = false ∧ Sends .txSend s q ∧ s.txReady = true ∧ q.durations ≠ [] ∧ s.cfg.backend = .peripheral ∧
      s.txBusy = false ∧ q.repeatCount = 1) ∧
    (∃ s q, s.engActive = false ∧ Sends .txSend s q ∧ s.txReady = true ∧ q.durations ≠ [] ∧ s.cfg.backend = .peripheral ∧
      s.txBusy = false ∧ q.repeatCount ≠ 1) :=
  ⟨⟨ready .peripheral 1, _, rfl, .inl ⟨rfl, rfl⟩, rfl, by decide, rfl, rfl, rfl⟩,
    ⟨ready .peripheral 2, _, rfl, .inl ⟨rfl, rfl⟩, rfl, by decide, rfl, rfl, by decide⟩⟩

theorem witness_ItemsCarryTheTicks :
    1 ≤ 1 ∧ (4096 : Duration) ∈ [(4096 : Duration)] ∧ 0 + 1 < (itemsOf 80 32767 4096).length ∧
      (itemsOf 80 32767 4096)[0]? = some ⟨true, 32767⟩ := by decide

theorem witness_PlayEmitsOneItem :
    (paused 2).txBusy = false ∧ ((playing 4).txBusy = true ∧ (playing 4).itemq[(playing 4).txPos]? = some ⟨false, 3233⟩ ∧
      (playing 4).txPos + 1 < (playing 4).itemq.length) ∧
    ((playing 5).txBusy = true ∧ (playing 5).itemq[(playing 5).txPos]? = some ⟨true, 4480⟩ ∧
      ¬(playing 5).txPos + 1 < (playing 5).itemq.length) := by decide

theorem witness_ResumeSubmitsTheNextPass :
    ¬((playing 0).engActive = true ∧ (playing 0).txBusy = false) ∧
      (paused 2).Inv ∧ (paused 2).engActive = true ∧ (paused 2).txBusy = false := ⟨by decide, inv_paused, rfl, rfl⟩

theorem witness_PeripheralPlaysTheWholeSend :
    ∃ i s q, s.Inv ∧ s.engActive = false ∧ s.txBusy = false ∧ Sends i s q ∧ s.txReady = true ∧ q.durations ≠ [] ∧
      s.cfg.backend = .peripheral ∧ q.repeatCount = 2 :=
  ⟨.txSend, ready .peripheral 2, _, inv_ready, rfl, rfl, .inl ⟨rfl, rfl⟩, rfl, by decide, rfl, rfl⟩

theorem witness_TraceLastsTotalLength :
    (∃ i s t q, s.Inv ∧ Sends i s q ∧ s.txReady = true ∧ q.durations ≠ [] ∧ s.cfg.backend = .bitbang ∧
      exec i s = .next t) ∧
    (∃ s : State, 0 < s.ticksPer10us.toNat ∧ s.ticksPer10us.toNat % 10 = 0) ∧ 80 % 10 = 0 :=
  ⟨⟨.txSend, ready .bitbang 3, _, _, inv_ready_bitbang, .inl ⟨rfl, rfl⟩, rfl, by decide, rfl, rfl⟩,
    ⟨base .peripheral, by decide⟩, rfl⟩

/-- The last handle in use, and the first that is not. -/
theorem witness_SwitchOnSendsTheStoredCopy :
    (∃ slot, fullSlots.slots[(7#16).toNat]? = some slot) ∧ fullSlots.engActive = false ∧
      fullSlots.nslotUsed ≤ (8#16).toNat := ⟨⟨_, rfl⟩, rfl, by decide⟩

theorem witness_SwitchCreateStoresACopy :
    (fullSlots.Inv ∧ fullSlots.engActive = false ∧ fullSlots.nslotUsed = fullSlots.cfg.nslot) ∧
      ∃ s : State, s.Inv ∧ s.engActive = false ∧ s.nslotUsed ≠ s.cfg.nslot :=
  ⟨⟨inv_fullSlots, rfl, rfl⟩, ready .peripheral 1, inv_ready_one, rfl, by decide⟩

theorem witness_SwitchOffDoesNothing :
    fullSlots.engActive = false ∧ (7#16).toNat < fullSlots.nslotUsed ∧ fullSlots.nslotUsed ≤ (8#16).toNat := by decide

theorem witness_RxSetupOnce :
    ((base .bitbang).engActive = false ∧ (base .bitbang).rxReady = true) ∧
      ∃ s : State, s.engActive = false ∧ s.rxReady = false :=
  ⟨⟨rfl, rfl⟩, State.resetWith (specConfig .bitbang), rfl, rfl⟩

/-- A registration that passes every check at the largest expected fields, and one without a free entry. -/
theorem witness_RegisterChecksThenAppends :
    ((base .bitbang).Inv ∧ (base .bitbang).engActive = false ∧ 1#4 = vendorCode .nec ∧
      ((base .bitbang).cfg.desc .nec).nbitsMin ≤ (32#16).toNat ∧ (32#16).toNat ≤ ((base .bitbang).cfg.desc .nec).nbitsMax ∧
      (0xFFFF#32).toNat < 2 ^ ((base .bitbang).cfg.desc .nec).addrBits ∧
      (0xFFFF#32).toNat < 2 ^ ((32#16).toNat - ((base .bitbang).cfg.desc .nec).addrBits) ∧
      (base .bitbang).ndecUsed ≠ (base .bitbang).cfg.ndec) ∧
    (fullDec.Inv ∧ fullDec.engActive = false ∧ ¬fullDec.ndecUsed ≠ fullDec.cfg.ndec) ∧ (∀ v, 0#4 ≠ vendorCode v) ∧
    ((0x21110020#32).toNat / 2 ^ 24 = 0x21 ∧ (0x21110020#32).toNat / 2 ^ 20 % 8 ≠ 0) :=
  ⟨⟨inv_base _, by decide⟩, ⟨inv_fullDec, by decide⟩, fun v => by cases v <;> decide, by decide⟩

/-- The six clauses: the threshold met and passed by one across a wrap, the buffer full and not. -/
theorem witness_EdgeByReceiverState :
    (∃ s : State, s.rxReady = false ∨ s.irqEn = false) ∧
    (∃ s : State, s.rxReady = true ∧ s.irqEn = true ∧ s.rxState = .idle) ∧
    (∃ (s : State) (t : Word), s.rxReady = true ∧ s.irqEn = true ∧ s.rxState = .capturing ∧
      (t.toNat + 2 ^ 32 - s.lastEdge.toNat) % 2 ^ 32 = s.cfg.idleUs + 1) ∧
    (∃ (s : State) (t : Word), s.rxReady = true ∧ s.irqEn = true ∧ s.rxState = .capturing ∧
      (t.toNat + 2 ^ 32 - s.lastEdge.toNat) % 2 ^ 32 = s.cfg.idleUs ∧ s.capLen < s.cfg.capCapacity) ∧
    (∃ (s : State) (t : Word), s.rxReady = true ∧ s.irqEn = true ∧ s.rxState = .capturing ∧
      (t.toNat + 2 ^ 32 - s.lastEdge.toNat) % 2 ^ 32 ≤ s.cfg.idleUs ∧ s.cfg.capCapacity ≤ s.capLen) ∧
    (∃ s : State, s.rxReady = true ∧ s.irqEn = true ∧ s.rxState = .done) :=
  ⟨⟨State.resetWith (specConfig .bitbang), .inl rfl⟩, ⟨base .bitbang, rfl, rfl, rfl⟩,
    ⟨capturing [] 0xFFFFFF00, 10001 - 0x100, rfl, rfl, rfl, by decide⟩,
    ⟨capturing [] 0xFFFFFF00, 10000 - 0x100, rfl, rfl, rfl, by decide, by decide⟩,
    ⟨{ capturing [560, 560] 0 with cfg := { specConfig .bitbang with capCapacity := 2 } }, 500, rfl, rfl, rfl, by decide,
      by decide⟩,
    ⟨captured [560], rfl, rfl, rfl⟩⟩

theorem witness_IdleTimeoutCompletesTheCapture :
    (∃ (s : State) (t : Word), s.rxReady = true ∧ s.irqEn = true ∧ s.rxState = .capturing ∧
      (t.toNat + 2 ^ 32 - s.lastEdge.toNat) % 2 ^ 32 > s.cfg.idleUs) ∧
    (∃ (s : State) (t : Word), ¬(s.rxReady = true ∧ s.irqEn = true ∧ s.rxState = .capturing ∧
      (t.toNat + 2 ^ 32 - s.lastEdge.toNat) % 2 ^ 32 > s.cfg.idleUs)) :=
  ⟨⟨capturing [] 100, 10101, rfl, rfl, rfl, by decide⟩, ⟨capturing [] 100, 10100, by decide⟩⟩

/-- The NEC decoder of `captured` matches the frame of T1 and no other capture; its dump decoder decodes or hands on. -/
theorem witness_DispatchRunsEveryDecoder :
    (∃ s : State, s.engActive = false ∧ s.rxState ≠ .done) ∧
    (∃ s : State, s.engActive = false ∧ s.rxState = .done ∧ s.dec[0]? = some ⟨.nec, 32, .exact, 4, 8⟩ ∧
      s.dec[1]? = some ⟨.nec, 32, .dump, 0, 0⟩ ∧
      decodeFrame s.cfg.tolPercent (s.cfg.desc .nec) (32#16).toNat s.capBuf = some ((4#32).toNat, (8#32).toNat)) ∧
    (∃ s : State, s.engActive = false ∧ s.rxState = .done ∧ s.dec[0]? = some ⟨.nec, 32, .exact, 4, 8⟩ ∧
      s.dec[1]? = some ⟨.nec, 32, .dump, 0, 0⟩ ∧
      decodeFrame s.cfg.tolPercent (s.cfg.desc .nec) (32#16).toNat s.capBuf = none) :=
  ⟨⟨base .bitbang, rfl, by decide⟩,
    ⟨captured (captureOf (frameOf descNEC 0x00040008 32)), rfl, rfl, rfl, rfl, by decide⟩,
    ⟨captured [560], rfl, rfl, rfl, rfl, by decide⟩⟩

theorem witness_OnTimeFrameIsCaptured :
    ∃ (s : State) (F : List Duration) (t0 t1 : Word), s.rxReady = true ∧ s.irqEn = true ∧ s.rxState = .idle ∧
      s.capBuf = [] ∧ F.length ≤ s.cfg.capCapacity ∧ (∀ e ∈ F, e.toInt.natAbs ≤ s.cfg.idleUs) ∧
      (t1.toNat + 2 ^ 32 - (t0 + BitVec.ofNat 32 (spanUs F)).toNat) % 2 ^ 32 > s.cfg.idleUs :=
  ⟨base .bitbang, [9000, -10000, 560], 0xFFFFFFFF, 29560, rfl, rfl, rfl, rfl, by decide,
    List.forall_iff_forall_mem.1 (by decide), by decide⟩

theorem witness_EncodedCommandIsReported :
    ∃ (s : State) (v : Vendor) (nbits address data : Nat) (F : List Duration) (t0 t1 : Word),
      s.Inv ∧ s.rxReady = true ∧ s.rxState = .idle ∧ s.engActive = false ∧
      (s.cfg.desc v).bitZeroUs ≠ (s.cfg.desc v).bitOneUs ∧
      encodeFrame (s.cfg.desc v) address data nbits = some F ∧ (∀ e ∈ F, e.toInt.natAbs ≤ s.cfg.idleUs) ∧
      (t1.toNat + 2 ^ 32 - (t0 + BitVec.ofNat 32 (spanUs F)).toNat) % 2 ^ 32 > s.cfg.idleUs ∧
      s.dec[0]? = some ⟨.nec, 32, .exact, 4, 8⟩ ∧ s.dec[1]? = some ⟨.nec, 32, .exact, 5, 8⟩ ∧
      s.dec[2]? = some ⟨.nec, 32, .dump, 0, 0⟩ ∧ v = .nec ∧ nbits = 32 ∧ address = 4 ∧ data = 8 :=
  ⟨{ base .bitbang with dec := [⟨.nec, 32, .exact, 4, 8⟩, ⟨.nec, 32, .exact, 5, 8⟩, ⟨.nec, 32, .dump, 0, 0⟩] }, .nec, 32, 4, 8,
    frameOf descNEC 0x00040008 32, 1000, 63161, inv_of_check (by decide) (by decide), rfl, rfl, rfl, by decide, rfl,
    List.forall_iff_forall_mem.1 (by decide), by decide, rfl, rfl, rfl, rfl, rfl, rfl, rfl⟩

theorem witness_EdgeAndTimeoutAgree :
    ∃ (s : State) (t : Word), s.rxReady = true ∧ s.irqEn = true ∧ s.rxState = .capturing ∧
      (t.toNat + 2 ^ 32 - s.lastEdge.toNat) % 2 ^ 32 > s.cfg.idleUs :=
  ⟨capturing [] 0xFFFFFF00, 10001 - 0x100, rfl, rfl, rfl, by decide⟩

theorem witness_BusyAndNotSetupHaveTheirCauses :
    (∃ i s t, s.Inv ∧ agentOf i = .host ∧ exec i s = .next t ∧ t.status = 2) ∧
      ∃ i s t, s.Inv ∧ agentOf i = .host ∧ exec i s = .next t ∧ t.status = 3 :=
  ⟨⟨.txSend, playing 5, _, inv_playing, rfl, rfl, by decide⟩,
    ⟨.txSend, State.resetWith (specConfig .bitbang), _, inv_of_check (by decide) (by decide), rfl, rfl, by decide⟩⟩

/-- Fields are answered, and a bad header space and an unclassifiable bit answer none (T6). -/
theorem witness_DecodeAnswersExactly :
    decodeFrame 25 descLG 1 [8000, 3000, 600, 2000, 600] = some (0, 1) ∧
      decodeFrame 25 descLG 1 [8000, 2999, 600, 2000, 600] = none ∧
      decodeFrame 25 descLG 1 [8000, 3000, 600, 2001, 600] = none ∧
      decodeFrame 25 descLG 1 [8000, 3000, 600, 2000] = none := by decide

/-- Two observed neighbours, after an empty span between two of one kind is dropped. -/
theorem witness_ObservedTraceLastsAsLong :
    ∃ (trace : List Span) (a b : Span), (observed trace)[0]? = some a ∧ (observed trace)[0 + 1]? = some b :=
  ⟨[⟨true, 5, 10⟩, ⟨false, 0, 10⟩, ⟨true, 6, 10⟩, ⟨true, 6, 80⟩], ⟨true, 11, 10⟩, ⟨true, 6, 80⟩, by decide, by decide⟩

end Sys2Proof.Tests
end

/-! SUPPORT. What each instruction and each step can do, said once: the exact condition under which it has a next state, and
that state (rules R120 to R216, R250, R262). -/

namespace Sys2Proof.Machine

/-- A checked sequence replaces `SEQ` (rules R128, R129). -/
theorem execRaw_next {carrier : Word} {entries : List Duration} {s t : State} :
    execRaw carrier entries s = .next t ↔ s.engActive = false ∧
      ((wfDurations s.cfg.seqCapacity entries = true ∧ t = (s.buildSeq carrier entries).finish none) ∨
        (wfDurations s.cfg.seqCapacity entries = false ∧ t = { s with status := 1, result := none })) := by
  rw [execRaw, hostStep_next]
  split <;> simp [*, returnOk_next, raise_next, Err.code]

/-- The carrier and the durations are kept (rule R132). -/
theorem execRepeatSeq_next {n : BitVec 16} {gap : Word} {s t : State} :
    execRepeatSeq n gap s = .next t ↔ s.engActive = false ∧
      ((n = 0 ∧ t = { s with status := 1, result := none }) ∨
        (n ≠ 0 ∧ t = ({ s with seq := { s.seq with repeatCount := n, repeatGap := gap } } : State).finish none)) := by
  rw [execRepeatSeq, hostStep_next]
  split <;> simp [*, returnOk_next, raise_next, Err.code]

/-- Rule R136. -/
theorem execLen_next {s t : State} :
    execLen s = .next t ↔
      s.engActive = false ∧ t = s.finish (some (.total (BitVec.ofNat 64 (totalLength s.seq)))) := by
  rw [execLen, hostStep_next, returnOk_next]

/-- The duty is checked before the busy flag (rule R151). -/
theorem execTxConfig_next {duty : BitVec 8} {pin : BitVec 16} {s t : State} :
    execTxConfig duty pin s = .next t ↔ s.engActive = false ∧
      (((duty.toNat < 1 ∨ duty.toNat > 100) ∧ t = { s with status := 1, result := none }) ∨
        (¬(duty.toNat < 1 ∨ duty.toNat > 100) ∧ s.txBusy = true ∧ t = { s with status := 2, result := none }) ∨
        (¬(duty.toNat < 1 ∨ duty.toNat > 100) ∧ s.txBusy = false ∧
          t = ({ s with txPin := pin, carrierDuty := duty, curCarrier := none } : State).finish none)) := by
  rw [execTxConfig, hostStep_next]
  split
  · simp only [*, raise_next, Err.code]; simp
  · split <;> simp only [*, returnOk_next, raise_next, Err.code] <;> simp

/-- Only the peripheral backend computes a tick rate (rule R152). -/
theorem execTxSetup_next {s t : State} :
    execTxSetup s = .next t ↔ s.engActive = false ∧
      ((s.txReady = true ∧ t = { s with status := 1, result := none }) ∨
        (s.txReady = false ∧ s.cfg.backend = .bitbang ∧ t = s.acquireTx.finish none) ∨
        (s.txReady = false ∧ s.cfg.backend = .peripheral ∧ tickRate s = 0 ∧
          t = { s with status := 1, result := none }) ∨
        (s.txReady = false ∧ s.cfg.backend = .peripheral ∧ tickRate s ≠ 0 ∧
          t = ({ s.acquireTx with
            ticksPer10us := BitVec.ofNat 32 (tickRate s), channel := 0 } : State).finish none)) := by
  rw [execTxSetup, hostStep_next]
  split
  · simp [*, raise_next, Err.code]
  · cases s.cfg.backend with
    | bitbang => simp [*, returnOk_next]
    | peripheral => by_cases h : tickRate s = 0 <;> simp [*, returnOk_next, raise_next, Err.code]

/-- What the send then answers is `send_next` (rule R155). -/
theorem execTxSend_next {s t : State} :
    execTxSend s = .next t ↔ s.engActive = false ∧ send s.seq s = .next t := by
  rw [execTxSend, hostStep_next]

/-- Rule R181. -/
theorem execSwCreate_next {name : BitVec 16} {s t : State} :
    execSwCreate name s = .next t ↔ s.engActive = false ∧
      ((s.cfg.nslot ≤ s.slots.length ∧ t = { s with status := 1, result := none }) ∨
        (s.slots.length < s.cfg.nslot ∧
          t = ({ s with slots := s.slots ++ [{ seq := s.seq, name := name }] } : State).finish
            (some (.handle (BitVec.ofNat 16 s.slots.length))))) := by
  rw [execSwCreate, hostStep_next]
  simp only [State.nslotUsed, memAppend]
  by_cases h : s.cfg.nslot ≤ s.slots.length <;> simp [h, returnOk_next, raise_next, Err.code]
  omega

/-- What the send then answers is `send_next` (rule R182). -/
theorem execSwOn_next {handle : BitVec 16} {s t : State} :
    execSwOn handle s = .next t ↔ s.engActive = false ∧
      ((s.slots[handle.toNat]? = none ∧ t = { s with status := 1, result := none }) ∨
        ∃ slot, s.slots[handle.toNat]? = some slot ∧ send slot.seq s = .next t) := by
  rw [execSwOn, hostStep_next, memRead]
  cases s.slots[handle.toNat]? <;> simp [raise_next, Err.code]

/-- Rule R183. -/
theorem execSwOff_next {handle : BitVec 16} {s t : State} :
    execSwOff handle s = .next t ↔ s.engActive = false ∧
      ((s.slots.length ≤ handle.toNat ∧ t = { s with status := 1, result := none }) ∨
        (handle.toNat < s.slots.length ∧ t = s.finish none)) := by
  rw [execSwOff, hostStep_next, State.nslotUsed]
  by_cases h : s.slots.length ≤ handle.toNat <;> simp [h, returnOk_next, raise_next, Err.code]
  omega

/-- Rule R201. -/
theorem execRxSetup_next {pin : BitVec 16} {s t : State} :
    execRxSetup pin s = .next t ↔ s.engActive = false ∧
      ((s.rxReady = true ∧ t = { s with status := 1, result := none }) ∨
        (s.rxReady = false ∧
          t = ({ s with rxPin := pin, rxState := .idle, capBuf := [], rxReady := true } : State).finish none)) := by
  rw [execRxSetup, hostStep_next]
  split <;> simp [*, returnOk_next, raise_next, Err.code]

/-- What registering then answers is `registerDecoder_next` (rule R202). -/
theorem execRxReg_next {mode : DecMode} {vendor : BitVec 4} {nbits : BitVec 16} {expAddress expData : Word} {s t : State} :
    execRxReg mode vendor nbits expAddress expData s = .next t ↔ s.engActive = false ∧
      ((vendorOf vendor = none ∧ t = { s with status := 1, result := none }) ∨
        ∃ v, vendorOf vendor = some v ∧
          registerDecoder { vendor := v, nbits := nbits, mode := mode, expAddress := expAddress, expData := expData } s =
            .next t) := by
  rw [execRxReg, hostStep_next]
  cases vendorOf vendor <;> simp [raise_next, Err.code]

/-- Only a completed capture is dispatched (rules R210, R212). -/
theorem execRxDispatch_next {s t : State} :
    execRxDispatch s = .next t ↔ s.engActive = false ∧
      ((s.rxState ≠ .done ∧ t = s.finish (some (.dispatched false))) ∨
        (s.rxState = .done ∧
          t = ({ s with rxLog := s.rxLog ++ [dispatchRec s], capBuf := [], rxState := .idle } : State).finish
            (some (.dispatched true)))) := by
  rw [execRxDispatch, hostStep_next]
  cases s.rxState <;> simp [returnOk_next, memAppend]

/-- Rules R203 to R207. -/
theorem execEvEdge_next {level : Level} {time : Word} {s t : State} :
    execEvEdge level time s = .next t ↔ s.edgeEnabled = true ∧
      ((s.rxState = .idle ∧ t = s.edgeIdle level time) ∨
        (s.rxState = .capturing ∧ t = s.edgeCapturing time) ∨ (s.rxState = .done ∧ t = s)) := by
  unfold execEvEdge
  split
  · cases s.rxState <;> simp [*, eq_comm]
  · simp [*]

/-- Rule R208. -/
theorem execEvIdle_next {time : Word} {s t : State} :
    execEvIdle time s = .next t ↔ s.idleEnabled time = true ∧ t = s.completeCapture := by
  unfold execEvIdle
  split <;> simp [*, eq_comm]

/-- An item under the cursor is needed, or the step faults (rule R170). -/
theorem execEvPlay_next {s t : State} :
    execEvPlay s = .next t ↔ s.playEnabled = true ∧ ∃ item, s.itemq[s.txPos]? = some item ∧
      t = (s.emit { level := item.level, len := item.ticks, per10us := s.ticksPer10us.toNat }).advance := by
  unfold execEvPlay memRead
  split
  · cases s.itemq[s.txPos]? <;> simp [*, eq_comm]
  · simp [*]

/-- Rule R172. -/
theorem execEvResume_next {s t : State} :
    execEvResume s = .next t ↔ s.resumeEnabled = true ∧
      t = ((s.emit (gapSpan s.engSeq)).submit s.engSeq.durations).countPass := by
  unfold execEvResume
  split <;> simp [*, eq_comm]

/-- A step with a next state runs the instruction at the front of the stream or raises for an illegal command word there; in
both its words have left the stream (rules R107, R250). -/
theorem step_next {s t : State} :
    step s = .next t ↔ (∃ i rest, fetch s = .instr i rest ∧ exec i (s.consume rest) = .next t) ∨
      ∃ why rest, fetch s = .illegal why rest ∧ illegalCommand (s.consume rest) = .next t := by
  unfold step
  cases fetch s <;> simp

end Sys2Proof.Machine

/-! SUPPORT. No operation of the model writes the configuration or `CLOCK_DIVIDER`: the operations `Laws/State.lean` does not
speak of, then the instructions (rules R6, R29, R56). -/

namespace Sys2Proof.Machine

@[simp] theorem State.reconfigureIfNeeded_config (s : State) (f : BitVec 32) :
    (s.reconfigureIfNeeded f).cfg = s.cfg ∧ (s.reconfigureIfNeeded f).clockDivider = s.clockDivider := by
  obtain ⟨-, h⟩ | ⟨-, h⟩ := s.reconfigureIfNeeded_cases f <;> simp [h]

@[simp] theorem State.bitbangSend_config (s : State) (q : PulseSeq) :
    (s.bitbangSend q).cfg = s.cfg ∧ (s.bitbangSend q).clockDivider = s.clockDivider := by
  simp [State.bitbangSend_eq]

@[simp] theorem State.peripheralSend_config (s : State) (q : PulseSeq) :
    (s.peripheralSend q).cfg = s.cfg ∧ (s.peripheralSend q).clockDivider = s.clockDivider := by
  obtain ⟨h, -⟩ | ⟨h, -⟩ := s.peripheralSend_eq q <;> simp [h]

@[simp] theorem State.acquireTx_config (s : State) :
    s.acquireTx.cfg = s.cfg ∧ s.acquireTx.clockDivider = s.clockDivider := ⟨rfl, rfl⟩

@[simp] theorem State.advance_config (s : State) :
    s.advance.cfg = s.cfg ∧ s.advance.clockDivider = s.clockDivider := by
  obtain ⟨-, h⟩ | ⟨-, h⟩ := s.advance_cases <;> simp [h]

@[simp] theorem State.countPass_config (s : State) :
    s.countPass.cfg = s.cfg ∧ s.countPass.clockDivider = s.clockDivider := ⟨rfl, rfl⟩

@[simp] theorem State.edgeIdle_config (s : State) (level : Level) (t : Word) :
    (s.edgeIdle level t).cfg = s.cfg ∧ (s.edgeIdle level t).clockDivider = s.clockDivider := by
  cases level <;> exact ⟨rfl, rfl⟩

@[simp] theorem State.capture_config (s : State) (gap : BitVec 32) :
    (s.capture gap).cfg = s.cfg ∧ (s.capture gap).clockDivider = s.clockDivider := by
  obtain ⟨-, h⟩ | ⟨-, h⟩ := s.capture_cases gap <;> simp [h]

@[simp] theorem State.edgeCapturing_config (s : State) (t : Word) :
    (s.edgeCapturing t).cfg = s.cfg ∧ (s.edgeCapturing t).clockDivider = s.clockDivider := by
  unfold State.edgeCapturing
  split <;> simp

theorem encodeCommand_keeps_config {v : Vendor} {n : BitVec 16} {a d : Word} {s t : State}
    (h : encodeCommand v n a d s = .next t) : t.cfg = s.cfg ∧ t.clockDivider = s.clockDivider := by
  obtain ⟨-, ⟨-, rfl⟩ | ⟨F, -, rfl⟩⟩ := encodeCommand_next h <;> simp

theorem registerDecoder_keeps_config {e : DecEntry} {s t : State} (h : registerDecoder e s = .next t) :
    t.cfg = s.cfg ∧ t.clockDivider = s.clockDivider := by
  obtain rfl | ⟨-, -, -, -, rfl⟩ := registerDecoder_next h <;> simp

theorem send_keeps_config {q : PulseSeq} {s t : State} (h : send q s = .next t) :
    t.cfg = s.cfg ∧ t.clockDivider = s.clockDivider := by
  obtain ⟨-, rfl⟩ | ⟨-, -, rfl⟩ | ⟨-, -, -, -, rfl⟩ | ⟨-, -, -, rfl⟩ | ⟨-, -, -, -, rfl⟩ := send_next h <;> simp

/-- No instruction has a write path to a parameter or to `CLOCK_DIVIDER` (rules R6, R29). -/
theorem exec_keeps_config {i : Instr} {s t : State} (h : exec i s = .next t) :
    t.cfg = s.cfg ∧ t.clockDivider = s.clockDivider := by
  cases i with
  | encNec => exact encodeCommand_keeps_config h
  | encLg => exact encodeCommand_keeps_config h
  | encPanasonic => exact encodeCommand_keeps_config h
  | raw => obtain ⟨-, ⟨-, rfl⟩ | ⟨-, rfl⟩⟩ := execRaw_next.1 h <;> simp
  | repeatSeq => obtain ⟨-, ⟨-, rfl⟩ | ⟨-, rfl⟩⟩ := execRepeatSeq_next.1 h <;> simp
  | len => obtain ⟨-, rfl⟩ := execLen_next.1 h; simp
  | txConfig => obtain ⟨-, ⟨-, rfl⟩ | ⟨-, -, rfl⟩ | ⟨-, -, rfl⟩⟩ := execTxConfig_next.1 h <;> simp
  | txSetup =>
    obtain ⟨-, ⟨-, rfl⟩ | ⟨-, -, rfl⟩ | ⟨-, -, -, rfl⟩ | ⟨-, -, -, rfl⟩⟩ := execTxSetup_next.1 h <;> simp
  | txSend => exact send_keeps_config (execTxSend_next.1 h).2
  | swCreate => obtain ⟨-, ⟨-, rfl⟩ | ⟨-, rfl⟩⟩ := execSwCreate_next.1 h <;> simp
  | swOn =>
    obtain ⟨-, ⟨-, rfl⟩ | ⟨slot, -, hsend⟩⟩ := execSwOn_next.1 h
    · simp
    · exact send_keeps_config hsend
  | swOff => obtain ⟨-, ⟨-, rfl⟩ | ⟨-, rfl⟩⟩ := execSwOff_next.1 h <;> simp
  | rxSetup => obtain ⟨-, ⟨-, rfl⟩ | ⟨-, rfl⟩⟩ := execRxSetup_next.1 h <;> simp
  | rxReg =>
    obtain ⟨-, ⟨-, rfl⟩ | ⟨v, -, hreg⟩⟩ := execRxReg_next.1 h
    · simp
    · exact registerDecoder_keeps_config hreg
  | rxDispatch => obtain ⟨-, ⟨-, rfl⟩ | ⟨-, rfl⟩⟩ := execRxDispatch_next.1 h <;> simp
  | evEdge => obtain ⟨-, ⟨-, rfl⟩ | ⟨-, rfl⟩ | ⟨-, rfl⟩⟩ := execEvEdge_next.1 h <;> simp
  | evIdle => obtain ⟨-, rfl⟩ := execEvIdle_next.1 h; simp
  | evPlay => obtain ⟨-, item, -, rfl⟩ := execEvPlay_next.1 h; simp
  | evResume => obtain ⟨-, rfl⟩ := execEvResume_next.1 h; simp

end Sys2Proof.Machine

namespace Sys2Proof.Claims

open Sys2Proof.Machine

/-- Settles O15: each instruction keeps both, an illegal command word writes only `STATUS` and the result port, and taking the
words off the stream touches neither. -/
theorem configurationNeverChanges : Obligations.ConfigurationNeverChanges := by
  unfold Obligations.ConfigurationNeverChanges
  intro s t h
  obtain ⟨i, rest, -, hexec⟩ | ⟨why, rest, -, hill⟩ := step_next.1 h
  · simpa using exec_keeps_config hexec
  · obtain ⟨-, rfl⟩ := illegalCommand_next.1 hill
    simp

end Sys2Proof.Claims

/-! SUPPORT. The state after reset (rules R6, R55). -/

namespace Sys2Proof.Machine

/-- The empty sequence is well-formed (rule R23). -/
theorem PulseSeq.empty_legal (cap : Nat) : PulseSeq.empty.Legal cap :=
  ⟨by simp [PulseSeq.empty, wfDurations, alternates], le_refl 1⟩

/-- The parameters of rule R6 are legal with either backend. -/
theorem specConfig_valid (b : Backend) : (specConfig b).Valid := by
  cases b <;> exact config_valid_of_check (by decide)

/-- Nothing is held, played or captured after reset, so only the duty, the divider and the two empty sequences ask for an
argument (rule R55). -/
theorem resetWith_inv {c : Config} (h : c.Valid) : (State.resetWith c).Inv where
  cfgValid := h
  seqLegal := PulseSeq.empty_legal _
  slotsLegal := fun _ hx => nomatch hx
  engSeqLegal := PulseSeq.empty_legal _
  slotsFit := Nat.zero_le _
  statusLegal := Nat.zero_le _
  dutyLegal := h.duty
  halfPeriods := fun _ hf => nomatch hf
  divider := rfl
  rate := fun hready => nomatch hready
  channelZero := rfl
  busyCursor := fun hbusy => nomatch hbusy
  notBusy := fun _ => ⟨rfl, rfl, rfl⟩
  itemsLegal := fun _ hx => nomatch hx
  busyReady := fun hbusy => nomatch hbusy
  engineRange := fun hactive => nomatch hactive
  irqOn := rfl
  unitsPositive := fun _ hsp => nomatch hsp
  idleEmpty := fun _ => rfl
  unreadyIdle := fun _ => rfl
  capFits := Nat.zero_le _
  capGaps := fun _ hg => nomatch hg
  decFits := Nat.zero_le _
  decLegal := fun _ he => nomatch he
  genCounts := rfl

end Sys2Proof.Machine

namespace Sys2Proof.Claims

open Sys2Proof.Machine

/-- Settles O10, by the definition of the reset state. -/
theorem resetValues : Obligations.ResetValues := by
  unfold Obligations.ResetValues
  rintro c s rfl
  simp [State.resetWith, PulseSeq.empty, State.nslotUsed, State.capLen, State.ndecUsed]

/-- Settles O11. -/
theorem resetMeetsInvariant : Obligations.ResetMeetsInvariant := by
  unfold Obligations.ResetMeetsInvariant
  exact ⟨fun c => resetWith_inv, specConfig_valid, resetWith_inv (specConfig_valid launchBackend), launchBackend, rfl⟩

end Sys2Proof.Claims

/-! SUPPORT. The operations of the model keep the invariant, one lemma an operation; then every instruction does
(rules R23 to R45). -/

namespace Sys2Proof.Machine

/-! Frames are well-formed sequences (rules R85, R91, R129). -/

/-- The bits of a frame followed by its stop mark alternate and begin, if with anything, with a mark (rule R85). -/
theorem bitEntries_stop_alternates {P : Descriptor} (hP : P.Valid) (bits : List Bool) :
    alternates (bits.flatMap (bitPair P) ++ stopEntries P) = true ∧
      ∀ x ∈ (bits.flatMap (bitPair P) ++ stopEntries P).head?, levelOf x = true := by
  induction bits with
  | nil =>
    cases hstop : P.hasStop <;>
      simp [stopEntries, hstop, alternates, levelOf_mark hP.stopMark, entryLegal_mark hP.stopMark]
  | cons b bits ih =>
    obtain ⟨halt, hhead⟩ := ih
    have hmark := bitMark_legal hP b
    rw [List.flatMap_cons, bitPair_eq, List.append_assoc]
    exact ⟨alternates_pair hmark (bitSpace_legal hP b) halt hhead, by simp [hmark.1]⟩

/-- The frames of a legal descriptor alternate (rules R85, R126). -/
theorem frameOf_alternates {P : Descriptor} (hP : P.Valid) (word nbits : Nat) :
    alternates (frameOf P word nbits) = true := by
  obtain ⟨halt, hhead⟩ := bitEntries_stop_alternates hP ((List.range nbits).map (sentBit P word nbits))
  rw [List.flatMap_map] at halt hhead
  rw [frameOf_eq]
  exact alternates_pair ⟨levelOf_mark hP.hdrMark, entryLegal_mark hP.hdrMark⟩
    ⟨levelOf_space hP.hdrSpace, entryLegal_space hP.hdrSpace⟩ halt hhead

/-- A frame of a legal descriptor has at most 99 entries (rules R31, R91). -/
theorem need_le {P : Descriptor} (hP : P.Valid) {nbits : Nat} (h : nbits ≤ P.nbitsMax) : need P nbits ≤ 99 := by
  have := hP.atMost48
  have := Bool.toNat_le P.hasStop
  unfold need
  omega

/-- What an encoder builds is a well-formed sequence (rules R120, R129). -/
theorem encodeFrame_wf {P : Descriptor} (hP : P.Valid) {cap a d n : Nat} (hcap : 99 ≤ cap) {F : List Duration}
    (h : encodeFrame P a d n = some F) : wfDurations cap F = true := by
  obtain ⟨⟨-, hmax⟩, -, -, rfl⟩ := encodeFrame_some.1 h
  have := need_le hP hmax
  simp only [wfDurations, frameOf_length, frameOf_alternates hP, Bool.and_true, decide_eq_true_eq]
  omega

/-- Every vendor's descriptor is legal in a legal configuration (rule R31). -/
theorem desc_valid {c : Config} (h : c.Valid) (v : Vendor) : (c.desc v).Valid := by
  cases v with
  | nec => exact h.nec
  | lg => exact h.lg
  | panasonic => exact h.panasonic

/-- A sequence replayed once with no gap is legal when its durations are (rules R23, R125). -/
theorem PulseSeq.legal_once {cap : Nat} {carrier : BitVec 32} {d : List Duration} (h : wfDurations cap d = true) :
    PulseSeq.Legal { carrier := carrier, durations := d, repeatCount := 1, repeatGap := 0 } cap := ⟨h, le_refl 1⟩

/-! Completing, failing, fetching. -/

theorem State.Inv.raised {s : State} (h : s.Inv) {code : BitVec 8} (hcode : code.toNat ≤ 3) :
    State.Inv { s with status := code, result := none } := { h with statusLegal := hcode }

theorem State.Inv.finish {s : State} (h : s.Inv) (v : Option CmdResult) : (s.finish v).Inv :=
  { h with statusLegal := Nat.zero_le 3 }

theorem State.Inv.consume {s : State} (h : s.Inv) (rest : List Word) : (s.consume rest).Inv := { h with }

/-! The operations. -/

/-- A well-formed sequence in `SEQ` (rule R23). -/
theorem State.Inv.withSeq {s : State} (h : s.Inv) {q : PulseSeq} (hq : q.Legal s.cfg.seqCapacity) :
    State.Inv { s with seq := q } := { h with seqLegal := hq }

/-- The half periods of a reconfigured carrier fit their registers, the duty being at most 100 (rule R159). -/
theorem State.Inv.reconfigure {s : State} (h : s.Inv) (f : BitVec 32) : (s.reconfigure f).Inv :=
  { h with
    halfPeriods := by
      intro g hg
      obtain rfl : f = g := by simpa using hg
      have hon := carrierOn_le f.toNat h.dutyLegal.2
      have hoff := carrierOff_le f.toNat s.carrierDuty.toNat
      simp only [State.reconfigure_onUs, State.reconfigure_offUs, State.reconfigure_carrierDuty, BitVec.toNat_ofNat]
      exact ⟨Nat.mod_eq_of_lt (by omega), Nat.mod_eq_of_lt (by omega)⟩ }

theorem State.Inv.reconfigureIfNeeded {s : State} (h : s.Inv) (f : BitVec 32) : (s.reconfigureIfNeeded f).Inv := by
  obtain ⟨-, heq⟩ | ⟨-, heq⟩ := s.reconfigureIfNeeded_cases f <;> rw [heq]
  · exact h
  · exact h.reconfigure f

/-- Every span of a bit-bang send is timed by the processor (rules R94, R162). -/
theorem bitbangSpans_per10us (q : PulseSeq) : ∀ sp ∈ bitbangSpans q, sp.per10us = 10 := by
  intro sp hsp
  simp only [bitbangSpans, passSpans, List.mem_flatMap, List.mem_append, List.mem_map] at hsp
  obtain ⟨r, -, hgap | ⟨e, -, rfl⟩⟩ := hsp
  · split at hgap
    · obtain rfl := List.mem_singleton.1 hgap
      rfl
    · cases hgap
  · rfl

theorem State.Inv.bitbangSend {s : State} (h : s.Inv) (q : PulseSeq) : (s.bitbangSend q).Inv := by
  rw [State.bitbangSend_eq]
  exact { h with
    notBusy := fun hbusy => ⟨(h.notBusy hbusy).1, (h.notBusy hbusy).2.1, rfl⟩
    irqOn := rfl
    unitsPositive := by
      intro sp hsp
      obtain hold | hnew := List.mem_append.1 hsp
      · exact h.unitsPositive sp hold
      · rw [bitbangSpans_per10us q sp hnew]; omega }

/-- A submission made while the pin is idle (rule R165). -/
theorem State.Inv.submit {s : State} (h : s.Inv) (hready : s.txReady = true) (hbackend : s.cfg.backend = .peripheral)
    (hidle : s.txOut = false) (d : List Duration) : (s.submit d).Inv :=
  { h with
    busyCursor := fun hbusy => by simpa [List.isEmpty_iff, List.length_pos_iff] using hbusy
    notBusy := fun hbusy => ⟨by simpa using hbusy, rfl, hidle⟩
    itemsLegal := toItems_legal h.cfgValid.itemMax _ d
    busyReady := fun _ => ⟨hready, hbackend⟩ }

/-- The engine starts between the first pass and the last (rules R30, R167). -/
theorem State.Inv.startEngine {s : State} (h : s.Inv) (hready : s.txReady = true) (hbackend : s.cfg.backend = .peripheral)
    {q : PulseSeq} (hq : q.Legal s.cfg.seqCapacity) (hrepeat : q.repeatCount ≠ 1#16) : (s.startEngine q).Inv :=
  { h with
    engSeqLegal := hq
    engineRange := fun _ => by
      have hne : q.repeatCount.toNat ≠ 1 := fun h1 => hrepeat (BitVec.eq_of_toNat_eq h1)
      have := hq.repeats
      exact ⟨hready, hbackend, le_refl 1, show 1 < q.repeatCount.toNat by omega⟩ }

theorem State.Inv.peripheralSend {s : State} (h : s.Inv) (hready : s.txReady = true) (hbackend : s.cfg.backend = .peripheral)
    (hbusy : s.txBusy = false) {q : PulseSeq} (hq : q.Legal s.cfg.seqCapacity) : (s.peripheralSend q).Inv := by
  have hsubmit := h.submit hready hbackend (h.notBusy hbusy).2.2 q.durations
  obtain ⟨heq, -⟩ | ⟨heq, hrepeat⟩ := s.peripheralSend_eq q <;> rw [heq]
  · exact hsubmit
  · exact hsubmit.startEngine hready hbackend hq hrepeat

/-- Acquiring the pin, the tick rate computed where the backend uses one (rule R152). -/
theorem State.Inv.acquireTx {s : State} (h : s.Inv)
    (hrate : s.cfg.backend = .peripheral → s.ticksPer10us.toNat = tickRate s ∧ 1 ≤ s.ticksPer10us.toNat) :
    s.acquireTx.Inv :=
  { h with
    halfPeriods := fun _ hf => nomatch hf
    rate := fun _ => hrate
    notBusy := fun hbusy => ⟨(h.notBusy hbusy).1, (h.notBusy hbusy).2.1, rfl⟩
    busyReady := fun hbusy => ⟨rfl, (h.busyReady hbusy).2⟩
    engineRange := fun hactive => ⟨rfl, (h.engineRange hactive).2⟩ }

/-- The tick rate fits its register (rules R29, R246). -/
theorem State.Inv.tickRate_lt {s : State} (h : s.Inv) : tickRate s < 2 ^ 32 := by
  rw [tickRate, h.divider]
  exact h.cfgValid.rateFits

/-- The tick rate may change while the pin is not acquired (rule R29). -/
theorem State.Inv.withTickRate {s : State} (h : s.Inv) (hready : s.txReady = false) (rate : BitVec 32) :
    State.Inv { s with ticksPer10us := rate, channel := 0 } :=
  { h with
    rate := fun htrue => absurd (hready.symm.trans htrue) Bool.false_ne_true
    channelZero := rfl }

/-- A span on a pin that plays, or an inactive one on a pin that does not (rules R36, R170, R172). -/
theorem State.Inv.emit {s : State} (h : s.Inv) {sp : Span} (hunit : 1 ≤ sp.per10us)
    (hlevel : s.txBusy = false → sp.level = false) : (s.emit sp).Inv :=
  { h with
    notBusy := fun hbusy => ⟨(h.notBusy hbusy).1, (h.notBusy hbusy).2.1, hlevel hbusy⟩
    unitsPositive := by
      intro x hx
      obtain hold | hnew := List.mem_append.1 hx
      · exact h.unitsPositive x hold
      · rwa [List.mem_singleton.1 hnew] }

theorem State.Inv.advance {s : State} (h : s.Inv) : s.advance.Inv := by
  obtain ⟨hmore, heq⟩ | ⟨-, heq⟩ := s.advance_cases <;> rw [heq]
  · exact { h with
      busyCursor := fun _ => hmore
      notBusy := fun hbusy => by simp [(h.notBusy hbusy).1] at hmore }
  · exact { h with
      busyCursor := fun hbusy => nomatch hbusy
      notBusy := fun _ => ⟨rfl, rfl, rfl⟩
      itemsLegal := fun x hx => nomatch hx
      busyReady := fun hbusy => nomatch hbusy }

/-- The engine counts up to its last pass, where it stops (rules R30, R172). -/
theorem State.Inv.countPass {s : State} (h : s.Inv) (hactive : s.engActive = true) : s.countPass.Inv :=
  { h with
    engineRange := by
      intro hstill
      obtain ⟨hready, hbackend, -, hlt⟩ := h.engineRange hactive
      have hnotLast : s.engRep.toNat + 1 ≠ s.engSeq.repeatCount.toNat := fun hlast => by
        simp [State.countPass, hlast] at hstill
      have hfits := s.engSeq.repeatCount.isLt
      have hrep : s.countPass.engRep.toNat = s.engRep.toNat + 1 := by
        rw [State.countPass, BitVec.toNat_add]
        exact Nat.mod_eq_of_lt (show s.engRep.toNat + 1 < 2 ^ 16 by omega)
      exact ⟨hready, hbackend, by omega, by rw [hrep]; exact lt_of_le_of_ne hlt hnotLast⟩ }

/-- A capture starts in `IDLE` (rule R205). -/
theorem State.Inv.edgeIdle {s : State} (h : s.Inv) (hready : s.rxReady = true) (hidle : s.rxState = .idle) (level : Level)
    (time : Word) : (s.edgeIdle level time).Inv := by
  cases level with
  | false => exact h
  | true => exact { h with
      idleEmpty := fun hidle => nomatch hidle
      unreadyIdle := fun hunready => absurd (hunready.symm.trans hready) Bool.false_ne_true
      genCounts := by simpa [hidle, State.edgeIdle] using h.genCounts }

/-- Only gaps within the threshold are stored (rules R206, R209). -/
theorem State.Inv.capture {s : State} (h : s.Inv) (hcap : s.rxState = .capturing) {gap : BitVec 32}
    (hgap : gap.toNat ≤ s.cfg.idleUs) : (s.capture gap).Inv := by
  obtain ⟨hroom, heq⟩ | ⟨-, heq⟩ := s.capture_cases gap <;> rw [heq]
  · exact { h with
      idleEmpty := fun hidle => by simp [hcap] at hidle
      capFits := by simpa using hroom
      capGaps := by
        intro g hg
        obtain hold | hnew := List.mem_append.1 hg
        · exact h.capGaps g hold
        · rwa [List.mem_singleton.1 hnew] }
  · exact h

/-- `GEN` counts the capture that ends (rules R43, R206, R208). -/
theorem State.Inv.completeCapture {s : State} (h : s.Inv) (hready : s.rxReady = true) (hcap : s.rxState = .capturing) :
    s.completeCapture.Inv :=
  { h with
    idleEmpty := fun hidle => nomatch hidle
    unreadyIdle := fun hunready => absurd (hunready.symm.trans hready) Bool.false_ne_true
    genCounts := by
      have hgen : s.gen.toNat = s.rxLog.length % 2 ^ 32 := by simpa [hcap] using h.genCounts
      simp [hgen] }

theorem State.Inv.edgeCapturing {s : State} (h : s.Inv) (hready : s.rxReady = true) (hcap : s.rxState = .capturing)
    (time : Word) : (s.edgeCapturing time).Inv := by
  unfold State.edgeCapturing
  split
  · exact h.completeCapture hready hcap
  · next hgap =>
    have hstored := h.capture hcap (gap := s.gapAt time) (by simpa [State.gapExceeds] using hgap)
    exact { hstored with }

/-- A dispatch moves the waiting capture to the log (rules R43, R210). -/
theorem State.Inv.dispatch {s : State} (h : s.Inv) (hdone : s.rxState = .done) (r : DispatchRec) :
    State.Inv { s with rxLog := s.rxLog ++ [r], capBuf := [], rxState := .idle } :=
  { h with
    idleEmpty := fun _ => rfl
    unreadyIdle := fun _ => rfl
    capFits := Nat.zero_le _
    capGaps := fun g hg => nomatch hg
    genCounts := by simpa [hdone] using h.genCounts }

/-! The instructions. -/

theorem encodeCommand_keeps_inv {v : Vendor} {n : BitVec 16} {a d : Word} {s t : State} (hs : s.Inv)
    (h : encodeCommand v n a d s = .next t) : t.Inv := by
  obtain ⟨-, ⟨-, rfl⟩ | ⟨F, hF, rfl⟩⟩ := encodeCommand_next h
  · exact hs.raised (by decide)
  · have hwf := encodeFrame_wf (desc_valid hs.cfgValid v) hs.cfgValid.seqMin hF
    exact (hs.withSeq (PulseSeq.legal_once hwf)).finish none

theorem registerDecoder_keeps_inv {e : DecEntry} {s t : State} (hs : s.Inv) (h : registerDecoder e s = .next t) :
    t.Inv := by
  obtain rfl | ⟨hmin, hmax, hexpected, hroom, rfl⟩ := registerDecoder_next h
  · exact hs.raised (by decide)
  · have hnew : e.Legal s.cfg := ⟨by simp [nbitsLegal, hmin, hmax], hexpected⟩
    have hdec : State.Inv { s with dec := s.dec ++ [e] } := { hs with
      decFits := by simpa using hroom
      decLegal := by
        intro x hx
        obtain hold | hlast := List.mem_append.1 hx
        · exact hs.decLegal x hold
        · rwa [List.mem_singleton.1 hlast] }
    exact hdec.finish _

/-- A send of a well-formed sequence (rule R153). -/
theorem send_keeps_inv {q : PulseSeq} {s t : State} (hs : s.Inv) (hq : q.Legal s.cfg.seqCapacity)
    (h : send q s = .next t) : t.Inv := by
  obtain ⟨-, rfl⟩ | ⟨-, -, rfl⟩ | ⟨-, -, -, -, rfl⟩ | ⟨-, -, -, rfl⟩ | ⟨hready, -, hbackend, hbusy, rfl⟩ := send_next h
  · exact hs.raised (by decide)
  · exact hs.finish none
  · exact hs.raised (by decide)
  · exact ((hs.reconfigureIfNeeded _).bitbangSend q).finish none
  · refine State.Inv.finish ?_ none
    have hr := hs.reconfigureIfNeeded q.carrier
    obtain ⟨-, heq⟩ | ⟨-, heq⟩ := s.reconfigureIfNeeded_cases q.carrier <;> rw [heq] at hr ⊢ <;>
      exact hr.peripheralSend hready hbackend hbusy hq

theorem execRaw_keeps_inv {carrier : Word} {entries : List Duration} {s t : State} (hs : s.Inv)
    (h : execRaw carrier entries s = .next t) : t.Inv := by
  obtain ⟨-, ⟨hwf, rfl⟩ | ⟨-, rfl⟩⟩ := execRaw_next.1 h
  · exact (hs.withSeq (PulseSeq.legal_once hwf)).finish none
  · exact hs.raised (by decide)

theorem execRepeatSeq_keeps_inv {n : BitVec 16} {gap : Word} {s t : State} (hs : s.Inv)
    (h : execRepeatSeq n gap s = .next t) : t.Inv := by
  obtain ⟨-, ⟨-, rfl⟩ | ⟨hn, rfl⟩⟩ := execRepeatSeq_next.1 h
  · exact hs.raised (by decide)
  · have hpos : 1 ≤ n.toNat := Nat.pos_of_ne_zero fun h0 => hn (BitVec.eq_of_toNat_eq h0)
    have hq : PulseSeq.Legal { s.seq with repeatCount := n, repeatGap := gap } s.cfg.seqCapacity :=
      ⟨hs.seqLegal.durations, hpos⟩
    exact (hs.withSeq hq).finish none

theorem execTxConfig_keeps_inv {duty : BitVec 8} {pin : BitVec 16} {s t : State} (hs : s.Inv)
    (h : execTxConfig duty pin s = .next t) : t.Inv := by
  obtain ⟨-, ⟨-, rfl⟩ | ⟨-, -, rfl⟩ | ⟨hduty, -, rfl⟩⟩ := execTxConfig_next.1 h
  · exact hs.raised (by decide)
  · exact hs.raised (by decide)
  · have hnew : State.Inv { s with txPin := pin, carrierDuty := duty, curCarrier := none } := { hs with
      dutyLegal := show 1 ≤ duty.toNat ∧ duty.toNat ≤ 100 by omega
      halfPeriods := fun _ hf => nomatch hf }
    exact hnew.finish none

theorem execTxSetup_keeps_inv {s t : State} (hs : s.Inv) (h : execTxSetup s = .next t) : t.Inv := by
  obtain ⟨-, ⟨-, rfl⟩ | ⟨-, hbackend, rfl⟩ | ⟨-, -, -, rfl⟩ | ⟨hready, -, hrate, rfl⟩⟩ := execTxSetup_next.1 h
  · exact hs.raised (by decide)
  · exact (hs.acquireTx fun hperipheral => by simp [hbackend] at hperipheral).finish none
  · exact hs.raised (by decide)
  · have htoNat : (BitVec.ofNat 32 (tickRate s)).toNat = tickRate s := Nat.mod_eq_of_lt hs.tickRate_lt
    have hacquired := (hs.withTickRate hready (BitVec.ofNat 32 (tickRate s))).acquireTx fun _ =>
      ⟨htoNat, htoNat.symm ▸ Nat.pos_of_ne_zero hrate⟩
    exact hacquired.finish none

theorem execSwCreate_keeps_inv {name : BitVec 16} {s t : State} (hs : s.Inv) (h : execSwCreate name s = .next t) :
    t.Inv := by
  obtain ⟨-, ⟨-, rfl⟩ | ⟨hroom, rfl⟩⟩ := execSwCreate_next.1 h
  · exact hs.raised (by decide)
  · have hslots : State.Inv { s with slots := s.slots ++ [{ seq := s.seq, name := name }] } := { hs with
      slotsLegal := by
        intro x hx
        obtain hold | hlast := List.mem_append.1 hx
        · exact hs.slotsLegal x hold
        · rw [List.mem_singleton.1 hlast]; exact hs.seqLegal
      slotsFit := by simpa using hroom }
    exact hslots.finish _

theorem execSwOn_keeps_inv {handle : BitVec 16} {s t : State} (hs : s.Inv) (h : execSwOn handle s = .next t) : t.Inv := by
  obtain ⟨-, ⟨-, rfl⟩ | ⟨slot, hslot, hsend⟩⟩ := execSwOn_next.1 h
  · exact hs.raised (by decide)
  · exact send_keeps_inv hs (hs.slotsLegal slot (List.mem_of_getElem? hslot)) hsend

theorem execSwOff_keeps_inv {handle : BitVec 16} {s t : State} (hs : s.Inv) (h : execSwOff handle s = .next t) :
    t.Inv := by
  obtain ⟨-, ⟨-, rfl⟩ | ⟨-, rfl⟩⟩ := execSwOff_next.1 h
  · exact hs.raised (by decide)
  · exact hs.finish none

theorem execRxSetup_keeps_inv {pin : BitVec 16} {s t : State} (hs : s.Inv) (h : execRxSetup pin s = .next t) : t.Inv := by
  obtain ⟨-, ⟨-, rfl⟩ | ⟨hready, rfl⟩⟩ := execRxSetup_next.1 h
  · exact hs.raised (by decide)
  · have hsetup : State.Inv { s with rxPin := pin, rxState := .idle, capBuf := [], rxReady := true } := { hs with
      idleEmpty := fun _ => rfl
      unreadyIdle := fun _ => rfl
      capFits := Nat.zero_le _
      capGaps := fun _ hg => nomatch hg
      genCounts := by simpa [hs.unreadyIdle hready] using hs.genCounts }
    exact hsetup.finish none

theorem execRxReg_keeps_inv {mode : DecMode} {vendor : BitVec 4} {nbits : BitVec 16} {expAddress expData : Word}
    {s t : State} (hs : s.Inv) (h : execRxReg mode vendor nbits expAddress expData s = .next t) : t.Inv := by
  obtain ⟨-, ⟨-, rfl⟩ | ⟨v, -, hreg⟩⟩ := execRxReg_next.1 h
  · exact hs.raised (by decide)
  · exact registerDecoder_keeps_inv hs hreg

theorem execRxDispatch_keeps_inv {s t : State} (hs : s.Inv) (h : execRxDispatch s = .next t) : t.Inv := by
  obtain ⟨-, ⟨-, rfl⟩ | ⟨hdone, rfl⟩⟩ := execRxDispatch_next.1 h
  · exact hs.finish _
  · exact (hs.dispatch hdone _).finish _

theorem execEvEdge_keeps_inv {level : Level} {time : Word} {s t : State} (hs : s.Inv)
    (h : execEvEdge level time s = .next t) : t.Inv := by
  obtain ⟨henabled, hcases⟩ := execEvEdge_next.1 h
  obtain ⟨hready, -⟩ := Bool.and_eq_true_iff.1 henabled
  obtain ⟨hidle, rfl⟩ | ⟨hcap, rfl⟩ | ⟨-, rfl⟩ := hcases
  · exact hs.edgeIdle hready hidle level time
  · exact hs.edgeCapturing hready hcap time
  · exact hs

theorem execEvIdle_keeps_inv {time : Word} {s t : State} (hs : s.Inv) (h : execEvIdle time s = .next t) : t.Inv := by
  obtain ⟨henabled, rfl⟩ := execEvIdle_next.1 h
  simp only [State.idleEnabled, Bool.and_eq_true, decide_eq_true_eq] at henabled
  obtain ⟨⟨⟨hready, -⟩, hcap⟩, -⟩ := henabled
  exact hs.completeCapture hready hcap

theorem execEvPlay_keeps_inv {s t : State} (hs : s.Inv) (h : execEvPlay s = .next t) : t.Inv := by
  obtain ⟨hbusy, item, -, rfl⟩ := execEvPlay_next.1 h
  obtain ⟨hready, hbackend⟩ := hs.busyReady hbusy
  exact (hs.emit (hs.rate hready hbackend).2 fun hnot => absurd (hnot.symm.trans hbusy) Bool.false_ne_true).advance

theorem execEvResume_keeps_inv {s t : State} (hs : s.Inv) (h : execEvResume s = .next t) : t.Inv := by
  obtain ⟨henabled, rfl⟩ := execEvResume_next.1 h
  obtain ⟨hactive, -⟩ := Bool.and_eq_true_iff.1 henabled
  obtain ⟨hready, hbackend, -, -⟩ := hs.engineRange hactive
  have hgap : (s.emit (gapSpan s.engSeq)).Inv := hs.emit (show 1 ≤ 10 by decide) fun _ => rfl
  exact (hgap.submit hready hbackend rfl s.engSeq.durations).countPass hactive

/-- Every instruction keeps the invariant. -/
theorem exec_keeps_inv {i : Instr} {s t : State} (hs : s.Inv) (h : exec i s = .next t) : t.Inv := by
  cases i with
  | encNec => exact encodeCommand_keeps_inv hs h
  | encLg => exact encodeCommand_keeps_inv hs h
  | encPanasonic => exact encodeCommand_keeps_inv hs h
  | raw => exact execRaw_keeps_inv hs h
  | repeatSeq => exact execRepeatSeq_keeps_inv hs h
  | len => obtain ⟨-, rfl⟩ := execLen_next.1 h; exact hs.finish _
  | txConfig => exact execTxConfig_keeps_inv hs h
  | txSetup => exact execTxSetup_keeps_inv hs h
  | txSend => exact send_keeps_inv hs hs.seqLegal (execTxSend_next.1 h).2
  | swCreate => exact execSwCreate_keeps_inv hs h
  | swOn => exact execSwOn_keeps_inv hs h
  | swOff => exact execSwOff_keeps_inv hs h
  | rxSetup => exact execRxSetup_keeps_inv hs h
  | rxReg => exact execRxReg_keeps_inv hs h
  | rxDispatch => exact execRxDispatch_keeps_inv hs h
  | evEdge => exact execEvEdge_keeps_inv hs h
  | evIdle => exact execEvIdle_keeps_inv hs h
  | evPlay => exact execEvPlay_keeps_inv hs h
  | evResume => exact execEvResume_keeps_inv hs h

/-- An illegal command word included (rule R106). -/
theorem step_keeps_inv {s t : State} (hs : s.Inv) (h : step s = .next t) : t.Inv := by
  obtain ⟨i, rest, -, hexec⟩ | ⟨why, rest, -, hill⟩ := step_next.1 h
  · exact exec_keeps_inv (hs.consume rest) hexec
  · obtain ⟨-, rfl⟩ := illegalCommand_next.1 hill
    exact (hs.consume rest).raised (by decide)

end Sys2Proof.Machine

namespace Sys2Proof.Claims

open Sys2Proof.Machine

/-- Settles O12: taking the words off the stream, every instruction and the illegal command each keep the invariant. -/
theorem stepKeepsInvariant : Obligations.StepKeepsInvariant := by
  unfold Obligations.StepKeepsInvariant
  intro s t hs h
  exact step_keeps_inv hs h

end Sys2Proof.Claims

/-! SUPPORT. The histories, the slots and the decoder list only grow: the operations that compute on them, then the
instructions (rules R24, R36, R45, R46). -/

namespace Sys2Proof.Machine

/-- The two histories, the slots and the decoder list of `s` begin those of `t` (rules R24, R36, R45, R46). -/
def State.HistoriesBegin (s t : State) : Prop :=
  s.txTrace <+: t.txTrace ∧ s.rxLog <+: t.rxLog ∧ s.slots <+: t.slots ∧ s.dec <+: t.dec

@[simp] theorem State.reconfigureIfNeeded_histories (s : State) (f : BitVec 32) :
    (s.reconfigureIfNeeded f).txTrace = s.txTrace ∧ (s.reconfigureIfNeeded f).rxLog = s.rxLog ∧
      (s.reconfigureIfNeeded f).slots = s.slots ∧ (s.reconfigureIfNeeded f).dec = s.dec := by
  obtain ⟨-, h⟩ | ⟨-, h⟩ := s.reconfigureIfNeeded_cases f <;> simp [h]

@[simp] theorem State.peripheralSend_histories (s : State) (q : PulseSeq) :
    (s.peripheralSend q).txTrace = s.txTrace ∧ (s.peripheralSend q).rxLog = s.rxLog ∧
      (s.peripheralSend q).slots = s.slots ∧ (s.peripheralSend q).dec = s.dec := by
  obtain ⟨h, -⟩ | ⟨h, -⟩ := s.peripheralSend_eq q <;> simp [h]

@[simp] theorem State.advance_histories (s : State) :
    s.advance.txTrace = s.txTrace ∧ s.advance.rxLog = s.rxLog ∧ s.advance.slots = s.slots ∧ s.advance.dec = s.dec := by
  obtain ⟨-, h⟩ | ⟨-, h⟩ := s.advance_cases <;> simp [h]

@[simp] theorem State.edgeIdle_histories (s : State) (level : Level) (time : Word) :
    (s.edgeIdle level time).txTrace = s.txTrace ∧ (s.edgeIdle level time).rxLog = s.rxLog ∧
      (s.edgeIdle level time).slots = s.slots ∧ (s.edgeIdle level time).dec = s.dec := by
  cases level <;> exact ⟨rfl, rfl, rfl, rfl⟩

@[simp] theorem State.capture_histories (s : State) (gap : BitVec 32) :
    (s.capture gap).txTrace = s.txTrace ∧ (s.capture gap).rxLog = s.rxLog ∧
      (s.capture gap).slots = s.slots ∧ (s.capture gap).dec = s.dec := by
  obtain ⟨-, h⟩ | ⟨-, h⟩ := s.capture_cases gap <;> simp [h]

@[simp] theorem State.edgeCapturing_histories (s : State) (time : Word) :
    (s.edgeCapturing time).txTrace = s.txTrace ∧ (s.edgeCapturing time).rxLog = s.rxLog ∧
      (s.edgeCapturing time).slots = s.slots ∧ (s.edgeCapturing time).dec = s.dec := by
  unfold State.edgeCapturing
  split <;> simp

theorem encodeCommand_histories {v : Vendor} {n : BitVec 16} {a d : Word} {s t : State}
    (h : encodeCommand v n a d s = .next t) : s.HistoriesBegin t := by
  obtain ⟨-, ⟨-, rfl⟩ | ⟨F, -, rfl⟩⟩ := encodeCommand_next h <;> simp [State.HistoriesBegin]

theorem registerDecoder_histories {e : DecEntry} {s t : State} (h : registerDecoder e s = .next t) :
    s.HistoriesBegin t := by
  obtain rfl | ⟨-, -, -, -, rfl⟩ := registerDecoder_next h <;> simp [State.HistoriesBegin]

theorem send_histories {q : PulseSeq} {s t : State} (h : send q s = .next t) : s.HistoriesBegin t := by
  obtain ⟨-, rfl⟩ | ⟨-, -, rfl⟩ | ⟨-, -, -, -, rfl⟩ | ⟨-, -, -, rfl⟩ | ⟨-, -, -, -, rfl⟩ := send_next h <;>
    simp [State.HistoriesBegin, State.bitbangSend_eq]

theorem exec_histories {i : Instr} {s t : State} (h : exec i s = .next t) : s.HistoriesBegin t := by
  cases i with
  | encNec => exact encodeCommand_histories h
  | encLg => exact encodeCommand_histories h
  | encPanasonic => exact encodeCommand_histories h
  | raw => obtain ⟨-, ⟨-, rfl⟩ | ⟨-, rfl⟩⟩ := execRaw_next.1 h <;> simp [State.HistoriesBegin]
  | repeatSeq => obtain ⟨-, ⟨-, rfl⟩ | ⟨-, rfl⟩⟩ := execRepeatSeq_next.1 h <;> simp [State.HistoriesBegin]
  | len => obtain ⟨-, rfl⟩ := execLen_next.1 h; simp [State.HistoriesBegin]
  | txConfig =>
    obtain ⟨-, ⟨-, rfl⟩ | ⟨-, -, rfl⟩ | ⟨-, -, rfl⟩⟩ := execTxConfig_next.1 h <;> simp [State.HistoriesBegin]
  | txSetup =>
    obtain ⟨-, ⟨-, rfl⟩ | ⟨-, -, rfl⟩ | ⟨-, -, -, rfl⟩ | ⟨-, -, -, rfl⟩⟩ := execTxSetup_next.1 h <;>
      simp [State.HistoriesBegin, State.acquireTx]
  | txSend => exact send_histories (execTxSend_next.1 h).2
  | swCreate => obtain ⟨-, ⟨-, rfl⟩ | ⟨-, rfl⟩⟩ := execSwCreate_next.1 h <;> simp [State.HistoriesBegin]
  | swOn =>
    obtain ⟨-, ⟨-, rfl⟩ | ⟨slot, -, hsend⟩⟩ := execSwOn_next.1 h
    · simp [State.HistoriesBegin]
    · exact send_histories hsend
  | swOff => obtain ⟨-, ⟨-, rfl⟩ | ⟨-, rfl⟩⟩ := execSwOff_next.1 h <;> simp [State.HistoriesBegin]
  | rxSetup => obtain ⟨-, ⟨-, rfl⟩ | ⟨-, rfl⟩⟩ := execRxSetup_next.1 h <;> simp [State.HistoriesBegin]
  | rxReg =>
    obtain ⟨-, ⟨-, rfl⟩ | ⟨v, -, hreg⟩⟩ := execRxReg_next.1 h
    · simp [State.HistoriesBegin]
    · exact registerDecoder_histories hreg
  | rxDispatch => obtain ⟨-, ⟨-, rfl⟩ | ⟨-, rfl⟩⟩ := execRxDispatch_next.1 h <;> simp [State.HistoriesBegin]
  | evEdge => obtain ⟨-, ⟨-, rfl⟩ | ⟨-, rfl⟩ | ⟨-, rfl⟩⟩ := execEvEdge_next.1 h <;> simp [State.HistoriesBegin]
  | evIdle => obtain ⟨-, rfl⟩ := execEvIdle_next.1 h; simp [State.HistoriesBegin]
  | evPlay => obtain ⟨-, item, -, rfl⟩ := execEvPlay_next.1 h; simp [State.HistoriesBegin]
  | evResume => obtain ⟨-, rfl⟩ := execEvResume_next.1 h; simp [State.HistoriesBegin, State.countPass]

end Sys2Proof.Machine

namespace Sys2Proof.Claims

open Sys2Proof.Machine

/-- Settles O14: each instruction appends to these lists or leaves them. -/
theorem historiesOnlyGrow : Obligations.HistoriesOnlyGrow := by
  unfold Obligations.HistoriesOnlyGrow
  intro i s t h
  exact exec_histories h

end Sys2Proof.Claims

/-! SUPPORT. Commands write `STATUS` with one of four codes; event steps write neither `STATUS` nor the result port (rules
R25, R105). -/

namespace Sys2Proof.Machine

/-- `STATUS` holds a code of rule R25. -/
def State.StatusCoded (s : State) : Prop := s.status = 0 ∨ s.status = 1 ∨ s.status = 2 ∨ s.status = 3

@[simp] theorem State.finish_statusCoded (s : State) (v : Option CmdResult) : (s.finish v).StatusCoded := .inl rfl

@[simp] theorem State.failed_statusCoded (s : State) (code : BitVec 8) :
    State.StatusCoded { s with status := code, result := none } ↔ code = 0 ∨ code = 1 ∨ code = 2 ∨ code = 3 := .rfl

theorem encodeCommand_statusCoded {v : Vendor} {n : BitVec 16} {a d : Word} {s t : State}
    (h : encodeCommand v n a d s = .next t) : t.StatusCoded := by
  obtain ⟨-, ⟨-, rfl⟩ | ⟨F, -, rfl⟩⟩ := encodeCommand_next h <;> simp

theorem registerDecoder_statusCoded {e : DecEntry} {s t : State} (h : registerDecoder e s = .next t) :
    t.StatusCoded := by
  obtain rfl | ⟨-, -, -, -, rfl⟩ := registerDecoder_next h <;> simp

theorem send_statusCoded {q : PulseSeq} {s t : State} (h : send q s = .next t) : t.StatusCoded := by
  obtain ⟨-, rfl⟩ | ⟨-, -, rfl⟩ | ⟨-, -, -, -, rfl⟩ | ⟨-, -, -, rfl⟩ | ⟨-, -, -, -, rfl⟩ := send_next h <;> simp

/-- A command writes one of the codes 0 to 3 (rule R25). -/
theorem exec_host_statusCoded {i : Instr} {s t : State} (hi : agentOf i = .host) (h : exec i s = .next t) :
    t.StatusCoded := by
  cases i with
  | encNec => exact encodeCommand_statusCoded h
  | encLg => exact encodeCommand_statusCoded h
  | encPanasonic => exact encodeCommand_statusCoded h
  | raw => obtain ⟨-, ⟨-, rfl⟩ | ⟨-, rfl⟩⟩ := execRaw_next.1 h <;> simp
  | repeatSeq => obtain ⟨-, ⟨-, rfl⟩ | ⟨-, rfl⟩⟩ := execRepeatSeq_next.1 h <;> simp
  | len => obtain ⟨-, rfl⟩ := execLen_next.1 h; simp
  | txConfig =>
    obtain ⟨-, ⟨-, rfl⟩ | ⟨-, -, rfl⟩ | ⟨-, -, rfl⟩⟩ := execTxConfig_next.1 h <;> simp
  | txSetup =>
    obtain ⟨-, ⟨-, rfl⟩ | ⟨-, -, rfl⟩ | ⟨-, -, -, rfl⟩ | ⟨-, -, -, rfl⟩⟩ := execTxSetup_next.1 h <;> simp
  | txSend => exact send_statusCoded (execTxSend_next.1 h).2
  | swCreate => obtain ⟨-, ⟨-, rfl⟩ | ⟨-, rfl⟩⟩ := execSwCreate_next.1 h <;> simp
  | swOn =>
    obtain ⟨-, ⟨-, rfl⟩ | ⟨slot, -, hsend⟩⟩ := execSwOn_next.1 h
    · simp
    · exact send_statusCoded hsend
  | swOff => obtain ⟨-, ⟨-, rfl⟩ | ⟨-, rfl⟩⟩ := execSwOff_next.1 h <;> simp
  | rxSetup => obtain ⟨-, ⟨-, rfl⟩ | ⟨-, rfl⟩⟩ := execRxSetup_next.1 h <;> simp
  | rxReg =>
    obtain ⟨-, ⟨-, rfl⟩ | ⟨v, -, hreg⟩⟩ := execRxReg_next.1 h
    · simp
    · exact registerDecoder_statusCoded hreg
  | rxDispatch => obtain ⟨-, ⟨-, rfl⟩ | ⟨-, rfl⟩⟩ := execRxDispatch_next.1 h <;> simp
  | evEdge => nomatch hi
  | evIdle => nomatch hi
  | evPlay => nomatch hi
  | evResume => nomatch hi

@[simp] theorem State.advance_ports (s : State) : s.advance.status = s.status ∧ s.advance.result = s.result := by
  obtain ⟨-, h⟩ | ⟨-, h⟩ := s.advance_cases <;> simp [h]

@[simp] theorem State.countPass_ports (s : State) :
    s.countPass.status = s.status ∧ s.countPass.result = s.result := ⟨rfl, rfl⟩

@[simp] theorem State.edgeIdle_ports (s : State) (level : Level) (time : Word) :
    (s.edgeIdle level time).status = s.status ∧ (s.edgeIdle level time).result = s.result := by
  cases level <;> exact ⟨rfl, rfl⟩

@[simp] theorem State.capture_ports (s : State) (gap : BitVec 32) :
    (s.capture gap).status = s.status ∧ (s.capture gap).result = s.result := by
  obtain ⟨-, h⟩ | ⟨-, h⟩ := s.capture_cases gap <;> simp [h]

@[simp] theorem State.edgeCapturing_ports (s : State) (time : Word) :
    (s.edgeCapturing time).status = s.status ∧ (s.edgeCapturing time).result = s.result := by
  unfold State.edgeCapturing
  split <;> simp

/-- An event step leaves `STATUS` and the result port (rules R25, R105). -/
theorem exec_event_keeps_ports {i : Instr} {s t : State} (hi : agentOf i ≠ .host) (h : exec i s = .next t) :
    t.status = s.status ∧ t.result = s.result := by
  cases i with
  | evEdge => obtain ⟨-, ⟨-, rfl⟩ | ⟨-, rfl⟩ | ⟨-, rfl⟩⟩ := execEvEdge_next.1 h <;> simp
  | evIdle => obtain ⟨-, rfl⟩ := execEvIdle_next.1 h; simp
  | evPlay => obtain ⟨-, item, -, rfl⟩ := execEvPlay_next.1 h; simp
  | evResume => obtain ⟨-, rfl⟩ := execEvResume_next.1 h; simp
  | _ => exact absurd rfl hi

end Sys2Proof.Machine

namespace Sys2Proof.Claims

open Sys2Proof.Machine

/-- Settles O16, the commands and the event steps apart. -/
theorem statusWrittenByCommandsOnly : Obligations.StatusWrittenByCommandsOnly := by
  unfold Obligations.StatusWrittenByCommandsOnly
  intro i s t h
  exact ⟨fun hi => exec_host_statusCoded hi h, fun hi => exec_event_keeps_ports hi h⟩

end Sys2Proof.Claims

/-! SUPPORT. Merging and dropping the spans of a trace (rules R36, R94). -/

namespace Sys2Proof.Machine

/-- Two spans are of one kind when their level and their unit agree (rule R36). -/
theorem sameKind_iff {a b : Span} : sameKind a b = true ↔ a.level = b.level ∧ a.per10us = b.per10us := by simp [sameKind]

/-- What merging puts in front of a merged trace: the new span, or one of its kind that takes in its neighbour's length
(rule R36). -/
theorem mergeSpans_cons_cases (a : Span) (rest : List Span) :
    (mergeSpans rest = [] ∧ mergeSpans (a :: rest) = [a]) ∨
      ∃ b more, mergeSpans rest = b :: more ∧
        ((sameKind a b = true ∧ mergeSpans (a :: rest) = { a with len := a.len + b.len } :: more) ∨
          (sameKind a b = false ∧ mergeSpans (a :: rest) = a :: b :: more)) := by
  cases hrest : mergeSpans rest with
  | nil => simp [mergeSpans, hrest]
  | cons b more => cases hkind : sameKind a b <;> simp [mergeSpans, hrest, hkind]

/-- Merging keeps the duration (rules R36, R94). -/
theorem traceUs_mergeSpans (trace : List Span) : traceUs (mergeSpans trace) = traceUs trace := by
  induction trace with
  | nil => rfl
  | cons a rest ih =>
    rw [traceUs_cons, ← ih]
    obtain ⟨hrest, hcons⟩ | ⟨b, more, hrest, ⟨hkind, hcons⟩ | ⟨-, hcons⟩⟩ := mergeSpans_cons_cases a rest
    · simp [hrest, hcons]
    · obtain ⟨hlevel, hunit⟩ := sameKind_iff.1 hkind
      have hadd := Span.us_add a.level a.len b.len a.per10us
      have hb : ({ level := a.level, len := b.len, per10us := a.per10us } : Span) = b := by rw [hlevel, hunit]
      rw [hb] at hadd
      rw [hcons, hrest, traceUs_cons, traceUs_cons, hadd, add_assoc]
    · simp [hrest, hcons]

/-- Merging makes no empty span (rule R36). -/
theorem mergeSpans_len_ne_zero {trace : List Span} (h : ∀ sp ∈ trace, sp.len ≠ 0) :
    ∀ sp ∈ mergeSpans trace, sp.len ≠ 0 := by
  induction trace with
  | nil => exact h
  | cons a rest ih =>
    obtain ⟨ha, hrestLen⟩ := List.forall_mem_cons.1 h
    have hmerged := ih hrestLen
    obtain ⟨-, hcons⟩ | ⟨b, more, hrest, ⟨-, hcons⟩ | ⟨-, hcons⟩⟩ := mergeSpans_cons_cases a rest <;> rw [hcons]
    · simpa using ha
    · rw [hrest, List.forall_mem_cons] at hmerged
      exact List.forall_mem_cons.2 ⟨by simp [ha], hmerged.2⟩
    · rw [hrest] at hmerged
      exact List.forall_mem_cons.2 ⟨ha, hmerged⟩

/-- No two neighbours of a merged trace are of one kind (rule R36). -/
theorem mergeSpans_isChain (trace : List Span) : (mergeSpans trace).IsChain fun a b => sameKind a b = false := by
  induction trace with
  | nil => exact .nil
  | cons a rest ih =>
    obtain ⟨-, hcons⟩ | ⟨b, more, hrest, ⟨hkind, hcons⟩ | ⟨hkind, hcons⟩⟩ := mergeSpans_cons_cases a rest <;> rw [hcons]
    · exact .singleton a
    · obtain ⟨hlevel, hunit⟩ := sameKind_iff.1 hkind
      rw [hrest, List.isChain_cons] at ih
      refine List.isChain_cons.2 ⟨fun c hc => ?_, ih.2⟩
      simpa only [sameKind, hlevel, hunit] using ih.1 c hc
    · rw [hrest] at ih
      exact .cons_cons hkind ih

/-- Dropping the empty spans keeps the duration (rules R36, R94). -/
theorem traceUs_filter_nonempty (trace : List Span) :
    traceUs (trace.filter fun sp => decide (sp.len ≠ 0)) = traceUs trace := by
  induction trace with
  | nil => rfl
  | cons sp rest ih =>
    by_cases hlen : sp.len = 0
    · rw [List.filter_cons_of_neg (by simp [hlen]), ih, traceUs_cons, Span.us_empty hlen, zero_add]
    · rw [List.filter_cons_of_pos (by simpa using hlen), traceUs_cons, traceUs_cons, ih]

end Sys2Proof.Machine

namespace Sys2Proof.Claims

open Sys2Proof.Machine

/-- Settles O60: dropping empty spans and merging each keep the duration, and a merged trace is a chain of spans of
different kinds. -/
theorem observedTraceLastsAsLong : Obligations.ObservedTraceLastsAsLong := by
  unfold Obligations.ObservedTraceLastsAsLong
  intro trace
  refine ⟨?_, mergeSpans_len_ne_zero (by simp), fun k a b ha hb => ?_⟩
  · rw [observed, traceUs_mergeSpans, traceUs_filter_nonempty]
  · obtain ⟨hk, rfl⟩ := List.getElem?_eq_some_iff.1 ha
    obtain ⟨hk1, rfl⟩ := List.getElem?_eq_some_iff.1 hb
    have hdiffer : sameKind (observed trace)[k] (observed trace)[k + 1] = false :=
      List.isChain_iff_getElem.1 (mergeSpans_isChain _) k hk1
    exact not_and_or.1 (mt sameKind_iff.2 (Bool.eq_false_iff.1 hdiffer))

end Sys2Proof.Claims

/-! SUPPORT. Only `EV.PLAY` can fault, and only with its cursor outside the item list (rules R63, R170). -/

namespace Sys2Proof.Machine

@[simp] theorem raise_ne_fault (e : Err) (s : State) (f : Fault) : raise e s ≠ .fault f := nofun

@[simp] theorem returnOk_ne_fault (v : Option CmdResult) (s : State) (f : Fault) : returnOk v s ≠ .fault f := nofun

@[simp] theorem send_ne_fault (q : PulseSeq) (s : State) (f : Fault) : send q s ≠ .fault f := by
  obtain ⟨t, h⟩ := send_total q s
  simp [h]

theorem hostStep_ne_fault {s : State} {o : Answer} {f : Fault} (h : o ≠ .fault f) : hostStep s o ≠ .fault f :=
  fun hfault => h (hostStep_fault.1 hfault).2

theorem encodeCommand_ne_fault (v : Vendor) (n : BitVec 16) (a d : Word) (s : State) (f : Fault) :
    encodeCommand v n a d s ≠ .fault f :=
  hostStep_ne_fault (by split <;> simp)

@[simp] theorem registerDecoder_ne_fault (e : DecEntry) (s : State) (f : Fault) : registerDecoder e s ≠ .fault f := by
  unfold registerDecoder
  repeat' split
  all_goals simp

theorem illegalCommand_ne_fault (s : State) (f : Fault) : illegalCommand s ≠ .fault f :=
  hostStep_ne_fault (raise_ne_fault _ s f)

/-- A command's failures are statuses, never faults (rule R260). -/
theorem exec_host_ne_fault {i : Instr} (hi : agentOf i = .host) (s : State) (f : Fault) : exec i s ≠ .fault f := by
  cases i with
  | encNec => exact encodeCommand_ne_fault _ _ _ _ s f
  | encLg => exact encodeCommand_ne_fault _ _ _ _ s f
  | encPanasonic => exact encodeCommand_ne_fault _ _ _ _ s f
  | raw => exact hostStep_ne_fault (by split <;> simp)
  | repeatSeq => exact hostStep_ne_fault (by split <;> simp)
  | len => exact hostStep_ne_fault (by simp)
  | txConfig => exact hostStep_ne_fault (by (repeat' split) <;> simp)
  | txSetup => exact hostStep_ne_fault (by (repeat' split) <;> simp)
  | txSend => exact hostStep_ne_fault (by simp)
  | swCreate => exact hostStep_ne_fault (by split <;> simp)
  | swOn => exact hostStep_ne_fault (by split <;> simp)
  | swOff => exact hostStep_ne_fault (by split <;> simp)
  | rxSetup => exact hostStep_ne_fault (by split <;> simp)
  | rxReg => exact hostStep_ne_fault (by split <;> simp)
  | rxDispatch => exact hostStep_ne_fault (by split <;> simp)
  | evEdge => nomatch hi
  | evIdle => nomatch hi
  | evPlay => nomatch hi
  | evResume => nomatch hi

/-- The only index a step reads on trust is the cursor of a busy peripheral (rules R63, R170). -/
theorem execEvPlay_fault {s : State} {f : Fault} (h : execEvPlay s = .fault f) :
    s.txBusy = true ∧ s.itemq.length ≤ s.txPos := by
  unfold execEvPlay memRead State.playEnabled at h
  split at h
  · next hbusy =>
    cases hitem : s.itemq[s.txPos]? with
    | none => exact ⟨hbusy, List.getElem?_eq_none_iff.1 hitem⟩
    | some item => simp [hitem] at h
  · cases h

/-- Under the invariant a busy peripheral's cursor is on an item (rule R26). -/
theorem execEvPlay_ne_fault {s : State} (hs : s.Inv) (f : Fault) : execEvPlay s ≠ .fault f := by
  intro h
  obtain ⟨hbusy, hout⟩ := execEvPlay_fault h
  exact absurd (hs.busyCursor hbusy) (Nat.not_lt.2 hout)

theorem execEvEdge_ne_fault (level : Level) (time : Word) (s : State) (f : Fault) : execEvEdge level time s ≠ .fault f := by
  unfold execEvEdge
  split
  · cases s.rxState <;> nofun
  · nofun

theorem execEvIdle_ne_fault (time : Word) (s : State) (f : Fault) : execEvIdle time s ≠ .fault f := by
  unfold execEvIdle
  split <;> nofun

theorem execEvResume_ne_fault (s : State) (f : Fault) : execEvResume s ≠ .fault f := by
  unfold execEvResume
  split <;> nofun

/-- Rule R63, instruction by instruction. -/
theorem exec_ne_fault {s : State} (hs : s.Inv) (i : Instr) (f : Fault) : exec i s ≠ .fault f := by
  cases i with
  | evPlay => exact execEvPlay_ne_fault hs f
  | evEdge => exact execEvEdge_ne_fault _ _ s f
  | evIdle => exact execEvIdle_ne_fault _ s f
  | evResume => exact execEvResume_ne_fault s f
  | _ => exact exec_host_ne_fault rfl s f

/-- An illegal command word and a stream that ends included (rules R106, R107). -/
theorem step_ne_fault {s : State} (hs : s.Inv) (f : Fault) : step s ≠ .fault f := by
  unfold step
  split
  · exact exec_ne_fault (hs.consume _) _ f
  · exact illegalCommand_ne_fault _ f
  · nofun
  · nofun

end Sys2Proof.Machine

namespace Sys2Proof.Claims

open Sys2Proof.Machine

/-- Settles O13: the only fault is `EV.PLAY`'s, and the invariant keeps its cursor inside the item list. -/
theorem noFaultUnderInvariant : Obligations.NoFaultUnderInvariant := by
  unfold Obligations.NoFaultUnderInvariant
  exact fun i s f hs => ⟨exec_ne_fault hs i f, step_ne_fault hs f⟩

end Sys2Proof.Claims

/-! SUPPORT. The operation an instruction's header names (rules R102, R103). -/

namespace Sys2Proof

/-- The operation of an instruction; `header_opc` ties it to the header. -/
def Instr.opc : Instr → Opc
  | .encNec _ _ _ => .encNec
  | .encLg _ _ _ => .encLg
  | .encPanasonic _ _ _ => .encPanasonic
  | .raw _ _ => .raw
  | .repeatSeq _ _ => .repeatSeq
  | .len => .len
  | .txConfig _ _ => .txConfig
  | .txSetup => .txSetup
  | .txSend => .txSend
  | .swCreate _ => .swCreate
  | .swOn _ => .swOn
  | .swOff _ => .swOff
  | .rxSetup _ => .rxSetup
  | .rxReg _ _ _ _ _ => .rxReg
  | .rxDispatch => .rxDispatch
  | .evEdge _ _ => .evEdge
  | .evIdle _ => .evIdle
  | .evPlay => .evPlay
  | .evResume => .evResume

/-- `EV.EDGE`'s reserved bits are 0 (rule R103). -/
theorem evEdgeA_reserved (level : Level) : (evEdgeA level).extractLsb' 1 7 = 0 := by cases level <;> rfl

/-- `RX.REG`'s reserved bits are 0 (rule R103). -/
theorem rxRegA_reserved (mode : DecMode) (vendor : BitVec 4) : (rxRegA mode vendor).extractLsb' 4 3 = 0 := by
  cases mode <;> revert vendor <;> decide

/-- The header an instruction is encoded with names its operation (rules R102, R103, R106). -/
@[simp] theorem Instr.header_opc (i : Instr) : i.header.opc = .ok i.opc := by
  cases i with
  | rxReg mode vendor =>
    simp [Instr.header, Header.opc, Opc.ifZero, rxRegA_reserved, Instr.opc]
  | evEdge level =>
    simp [Instr.header, Header.opc, Opc.ifZero, evEdgeA_reserved, Instr.opc]
  | _ => rfl

end Sys2Proof

/-! SUPPORT. A building command answers the same state when it is issued again (rule R64). -/

namespace Sys2Proof.Machine

/-- The check reads the descriptor table and the operands, which the command does not write (rules R120, R125). -/
theorem encodeCommand_again {v : Vendor} {n : BitVec 16} {a d : Word} {s t : State}
    (h : encodeCommand v n a d s = .next t) : encodeCommand v n a d t = .next t := by
  obtain ⟨hfree, ⟨hnone, rfl⟩ | ⟨F, hsome, rfl⟩⟩ := encodeCommand_next h
  · simp [encodeCommand, hostStep_free, hfree, hnone, raise, Err.code]
  · simp [encodeCommand, hostStep_free, hfree, hsome, returnOk, State.finish, State.buildSeq]

/-- Each of the seven commands that build or configure, its errors included. -/
theorem exec_builder_again {i : Instr} {s t : State}
    (hi : i.opc ∈ [.encNec, .encLg, .encPanasonic, .raw, .repeatSeq, .len, .txConfig]) (h : exec i s = .next t) :
    exec i t = .next t := by
  cases i with
  | encNec => exact encodeCommand_again h
  | encLg => exact encodeCommand_again h
  | encPanasonic => exact encodeCommand_again h
  | raw =>
    obtain ⟨hfree, ⟨hwf, rfl⟩ | ⟨hwf, rfl⟩⟩ := execRaw_next.1 h
    · exact execRaw_next.2 ⟨hfree, .inl ⟨hwf, rfl⟩⟩
    · exact execRaw_next.2 ⟨hfree, .inr ⟨hwf, rfl⟩⟩
  | repeatSeq =>
    obtain ⟨hfree, ⟨hzero, rfl⟩ | ⟨hpos, rfl⟩⟩ := execRepeatSeq_next.1 h
    · exact execRepeatSeq_next.2 ⟨hfree, .inl ⟨hzero, rfl⟩⟩
    · exact execRepeatSeq_next.2 ⟨hfree, .inr ⟨hpos, rfl⟩⟩
  | len =>
    obtain ⟨hfree, rfl⟩ := execLen_next.1 h
    exact execLen_next.2 ⟨hfree, rfl⟩
  | txConfig =>
    obtain ⟨hfree, ⟨hduty, rfl⟩ | ⟨hduty, hbusy, rfl⟩ | ⟨hduty, hidle, rfl⟩⟩ := execTxConfig_next.1 h
    · exact execTxConfig_next.2 ⟨hfree, .inl ⟨hduty, rfl⟩⟩
    · exact execTxConfig_next.2 ⟨hfree, .inr (.inl ⟨hduty, hbusy, rfl⟩)⟩
    · exact execTxConfig_next.2 ⟨hfree, .inr (.inr ⟨hduty, hidle, rfl⟩)⟩
  | _ => exact absurd hi (by simp [Instr.opc])

end Sys2Proof.Machine

namespace Sys2Proof.Claims

open Sys2Proof.Machine

/-- Settles O29: what a building command checks, it does not write, so the second run takes the branch of the first. -/
theorem buildersAreIdempotent : Obligations.BuildersAreIdempotent := by
  unfold Obligations.BuildersAreIdempotent
  intro i s t hi h
  exact exec_builder_again (by simpa using hi) h

end Sys2Proof.Claims

/-! SUPPORT. Which operation writes which buffer: the fields the shared operations leave unchanged, then the instructions
(rules R60, R170, R201, R210). -/

namespace Sys2Proof.Machine

/-- Every buffer that differs between `s` and `t` has the operation `o` among its writers (rule R60). -/
def State.BuffersWrittenBy (s : State) (o : Opc) (t : State) : Prop :=
  (t.seq ≠ s.seq → o ∈ [.encNec, .encLg, .encPanasonic, .raw, .repeatSeq]) ∧
  (t.slots ≠ s.slots → o = .swCreate) ∧
  (t.engSeq ≠ s.engSeq → o ∈ [.txSend, .swOn]) ∧
  (t.itemq ≠ s.itemq → o ∈ [.txSend, .swOn, .evPlay, .evResume]) ∧
  (t.capBuf ≠ s.capBuf → o ∈ [.evEdge, .rxDispatch, .rxSetup]) ∧
  (t.dec ≠ s.dec → o = .rxReg) ∧
  (t.txTrace ≠ s.txTrace → o ∈ [.txSend, .swOn, .evPlay, .evResume]) ∧
  (t.rxLog ≠ s.rxLog → o = .rxDispatch)

@[simp] theorem State.reconfigureIfNeeded_buffers (s : State) (f : BitVec 32) :
    (s.reconfigureIfNeeded f).seq = s.seq ∧ (s.reconfigureIfNeeded f).engSeq = s.engSeq ∧
      (s.reconfigureIfNeeded f).itemq = s.itemq ∧ (s.reconfigureIfNeeded f).capBuf = s.capBuf := by
  obtain ⟨-, h⟩ | ⟨-, h⟩ := s.reconfigureIfNeeded_cases f <;> simp [h]

@[simp] theorem State.peripheralSend_buffers (s : State) (q : PulseSeq) :
    (s.peripheralSend q).seq = s.seq ∧ (s.peripheralSend q).capBuf = s.capBuf := by
  obtain ⟨h, -⟩ | ⟨h, -⟩ := s.peripheralSend_eq q <;> simp [h]

@[simp] theorem State.advance_buffers (s : State) :
    s.advance.seq = s.seq ∧ s.advance.engSeq = s.engSeq ∧ s.advance.capBuf = s.capBuf := by
  obtain ⟨-, h⟩ | ⟨-, h⟩ := s.advance_cases <;> simp [h]

@[simp] theorem State.edgeIdle_buffers (s : State) (level : Level) (time : Word) :
    (s.edgeIdle level time).seq = s.seq ∧ (s.edgeIdle level time).engSeq = s.engSeq ∧
      (s.edgeIdle level time).itemq = s.itemq := by
  cases level <;> exact ⟨rfl, rfl, rfl⟩

@[simp] theorem State.capture_buffers (s : State) (gap : BitVec 32) :
    (s.capture gap).seq = s.seq ∧ (s.capture gap).engSeq = s.engSeq ∧ (s.capture gap).itemq = s.itemq := by
  obtain ⟨-, h⟩ | ⟨-, h⟩ := s.capture_cases gap <;> simp [h]

@[simp] theorem State.edgeCapturing_buffers (s : State) (time : Word) :
    (s.edgeCapturing time).seq = s.seq ∧ (s.edgeCapturing time).engSeq = s.engSeq ∧
      (s.edgeCapturing time).itemq = s.itemq := by
  unfold State.edgeCapturing
  split <;> simp

/-- An encoder writes `SEQ` alone (rule R125). -/
theorem encodeCommand_buffers {v : Vendor} {n : BitVec 16} {a d : Word} {s t : State} {o : Opc}
    (ho : o ∈ [.encNec, .encLg, .encPanasonic, .raw, .repeatSeq]) (h : encodeCommand v n a d s = .next t) :
    s.BuffersWrittenBy o t := by
  obtain ⟨-, ⟨-, rfl⟩ | ⟨F, -, rfl⟩⟩ := encodeCommand_next h
  · simp [State.BuffersWrittenBy]
  · simp [State.BuffersWrittenBy, -List.mem_cons, ho]

/-- Registering writes `DEC` alone (rule R202). -/
theorem registerDecoder_buffers {e : DecEntry} {s t : State} (h : registerDecoder e s = .next t) :
    s.BuffersWrittenBy .rxReg t := by
  obtain rfl | ⟨-, -, -, -, rfl⟩ := registerDecoder_next h <;> simp [State.BuffersWrittenBy]

/-- A send writes `TX_TRACE` with the bit-bang backend, `ITEMQ` and `ENG_SEQ` with the peripheral (rules R162, R167). -/
theorem send_buffers {q : PulseSeq} {s t : State} {o : Opc} (ho : o ∈ [.txSend, .swOn]) (h : send q s = .next t) :
    s.BuffersWrittenBy o t := by
  have hplays : o ∈ [.txSend, .swOn, .evPlay, .evResume] := List.mem_append_left [Opc.evPlay, Opc.evResume] ho
  obtain ⟨-, rfl⟩ | ⟨-, -, rfl⟩ | ⟨-, -, -, -, rfl⟩ | ⟨-, -, -, rfl⟩ | ⟨-, -, -, -, rfl⟩ := send_next h
  · simp [State.BuffersWrittenBy]
  · simp [State.BuffersWrittenBy]
  · simp [State.BuffersWrittenBy]
  · simp [State.BuffersWrittenBy, State.bitbangSend_eq, -List.mem_cons, hplays]
  · simp [State.BuffersWrittenBy, -List.mem_cons, ho, hplays]

/-- Rule R60, instruction by instruction. -/
theorem exec_buffers {i : Instr} {s t : State} (h : exec i s = .next t) : s.BuffersWrittenBy i.opc t := by
  cases i with
  | encNec => exact encodeCommand_buffers (by simp [Instr.opc]) h
  | encLg => exact encodeCommand_buffers (by simp [Instr.opc]) h
  | encPanasonic => exact encodeCommand_buffers (by simp [Instr.opc]) h
  | raw => obtain ⟨-, ⟨-, rfl⟩ | ⟨-, rfl⟩⟩ := execRaw_next.1 h <;> simp [State.BuffersWrittenBy, Instr.opc]
  | repeatSeq =>
    obtain ⟨-, ⟨-, rfl⟩ | ⟨-, rfl⟩⟩ := execRepeatSeq_next.1 h <;> simp [State.BuffersWrittenBy, Instr.opc]
  | len => obtain ⟨-, rfl⟩ := execLen_next.1 h; simp [State.BuffersWrittenBy]
  | txConfig =>
    obtain ⟨-, ⟨-, rfl⟩ | ⟨-, -, rfl⟩ | ⟨-, -, rfl⟩⟩ := execTxConfig_next.1 h <;> simp [State.BuffersWrittenBy]
  | txSetup =>
    obtain ⟨-, ⟨-, rfl⟩ | ⟨-, -, rfl⟩ | ⟨-, -, -, rfl⟩ | ⟨-, -, -, rfl⟩⟩ := execTxSetup_next.1 h <;>
      simp [State.BuffersWrittenBy, State.acquireTx]
  | txSend => exact send_buffers (by simp [Instr.opc]) (execTxSend_next.1 h).2
  | swCreate =>
    obtain ⟨-, ⟨-, rfl⟩ | ⟨-, rfl⟩⟩ := execSwCreate_next.1 h <;> simp [State.BuffersWrittenBy, Instr.opc]
  | swOn =>
    obtain ⟨-, ⟨-, rfl⟩ | ⟨slot, -, hsend⟩⟩ := execSwOn_next.1 h
    · simp [State.BuffersWrittenBy]
    · exact send_buffers (by simp [Instr.opc]) hsend
  | swOff => obtain ⟨-, ⟨-, rfl⟩ | ⟨-, rfl⟩⟩ := execSwOff_next.1 h <;> simp [State.BuffersWrittenBy]
  | rxSetup =>
    obtain ⟨-, ⟨-, rfl⟩ | ⟨-, rfl⟩⟩ := execRxSetup_next.1 h <;> simp [State.BuffersWrittenBy, Instr.opc]
  | rxReg =>
    obtain ⟨-, ⟨-, rfl⟩ | ⟨v, -, hreg⟩⟩ := execRxReg_next.1 h
    · simp [State.BuffersWrittenBy]
    · exact registerDecoder_buffers hreg
  | rxDispatch =>
    obtain ⟨-, ⟨-, rfl⟩ | ⟨-, rfl⟩⟩ := execRxDispatch_next.1 h <;> simp [State.BuffersWrittenBy, Instr.opc]
  | evEdge =>
    obtain ⟨-, ⟨-, rfl⟩ | ⟨-, rfl⟩ | ⟨-, rfl⟩⟩ := execEvEdge_next.1 h <;> simp [State.BuffersWrittenBy, Instr.opc]
  | evIdle => obtain ⟨-, rfl⟩ := execEvIdle_next.1 h; simp [State.BuffersWrittenBy]
  | evPlay => obtain ⟨-, item, -, rfl⟩ := execEvPlay_next.1 h; simp [State.BuffersWrittenBy, Instr.opc]
  | evResume =>
    obtain ⟨-, rfl⟩ := execEvResume_next.1 h
    simp [State.BuffersWrittenBy, State.countPass, Instr.opc]

end Sys2Proof.Machine

namespace Sys2Proof.Claims

open Sys2Proof.Machine

/-- Settles O19: an instruction that is no writer of a buffer answers a state with the same buffer. -/
theorem buffersHaveTheirWriters : Obligations.BuffersHaveTheirWriters := by
  unfold Obligations.BuffersHaveTheirWriters
  intro i s t h
  simpa [State.BuffersWrittenBy] using exec_buffers h

end Sys2Proof.Claims

/-! SUPPORT. The header fields each operation asks for, against the decoder and against the opcode table (rules R100 to R103,
R106). -/

namespace Sys2Proof

/-- What rule R103 asks of the fields of a header that names an operation; `Header.opc_eq_ok_iff` ties it to the decoder. -/
def Opc.Heads (h : Header) : Opc → Prop
  | .encNec => h.op = 0x01 ∧ h.a = 0x01
  | .encLg => h.op = 0x01 ∧ h.a = 0x02
  | .encPanasonic => h.op = 0x01 ∧ h.a = 0x03
  | .raw => h.op = 0x02 ∧ h.a = 0
  | .repeatSeq => h.op = 0x03 ∧ h.a = 0
  | .len => h.op = 0x04 ∧ h.a = 0 ∧ h.b = 0
  | .txConfig => h.op = 0x10
  | .txSetup => h.op = 0x11 ∧ h.a = 0 ∧ h.b = 0
  | .txSend => h.op = 0x12 ∧ h.a = 0 ∧ h.b = 0
  | .swCreate => h.op = 0x18 ∧ h.a = 0
  | .swOn => h.op = 0x19 ∧ h.a = 0
  | .swOff => h.op = 0x1A ∧ h.a = 0
  | .rxSetup => h.op = 0x20 ∧ h.a = 0
  | .rxReg => h.op = 0x21 ∧ h.a.extractLsb' 4 3 = 0
  | .rxDispatch => h.op = 0x22 ∧ h.a = 0 ∧ h.b = 0
  | .evEdge => h.op = 0x80 ∧ h.a.extractLsb' 1 7 = 0 ∧ h.b = 0
  | .evIdle => h.op = 0x81 ∧ h.a = 0 ∧ h.b = 0
  | .evPlay => h.op = 0x82 ∧ h.a = 0 ∧ h.b = 0
  | .evResume => h.op = 0x83 ∧ h.a = 0 ∧ h.b = 0

/-- An operation is accepted exactly when the fields that must be 0 are (rule R106 (b)). -/
@[simp] theorem Opc.ifZero_eq_ok {o o' : Opc} {zero : Bool} : o.ifZero zero = .ok o' ↔ zero = true ∧ o = o' := by
  cases zero <;> simp [Opc.ifZero]

/-- For each operation all branches of `Header.opc` but one answer another operation or an error, which leaves the one
branch's conditions, and these exclude the branches before it (rules R102, R103, R106). -/
theorem Header.opc_eq_ok_iff {h : Header} {o : Opc} : h.opc = .ok o ↔ o.Heads h := by
  cases o <;>
    simp only [Header.opc, ite_eq_iff, Opc.ifZero_eq_ok, Except.ok.injEq, reduceCtorEq, and_false, false_or, or_false,
      and_true, Bool.and_eq_true, beq_iff_eq, Opc.Heads] <;>
    constructor <;> simp +contextual

/-- A test of a word under a mask is one test for each header field (rule R100). -/
theorem and_eq_iff_fields (w mask value : Word) : w &&& mask = value ↔
    (Header.ofWord w).op &&& (Header.ofWord mask).op = (Header.ofWord value).op ∧
      (Header.ofWord w).a &&& (Header.ofWord mask).a = (Header.ofWord value).a ∧
      (Header.ofWord w).b &&& (Header.ofWord mask).b = (Header.ofWord value).b := by
  have hfields : w &&& mask = value ↔ Header.ofWord (w &&& mask) = Header.ofWord value :=
    ⟨congrArg _, fun h => by simpa using congrArg Header.toWord h⟩
  simp [hfields, Header.ofWord, BitVec.extractLsb'_and]

/-- `RX.REG`'s mask of `A` picks the bits that must be 0 (rule R103). -/
theorem and_rxRegMask_eq_zero (a : BitVec 8) : a &&& 0x70#8 = 0#8 ↔ a.extractLsb' 4 3 = 0#3 := by
  revert a; decide

/-- `EV.EDGE`'s mask of `A` picks the bits that must be 0 (rule R103). -/
theorem and_evEdgeMask_eq_zero (a : BitVec 8) : a &&& 0xFE#8 = 0#8 ↔ a.extractLsb' 1 7 = 0#7 := by
  revert a; decide

end Sys2Proof

namespace Sys2Proof.Claims

/-- A header word names an operation exactly when its row of the opcode table matches (rules R103, R106). -/
theorem heads_iff_row_matches :
    ∀ row ∈ opcodeRows, ∀ w : Word, row.1.Heads (Header.ofWord w) ↔ w &&& row.2.1 = row.2.2 := by
  have hop (x : BitVec 8) : x &&& 0xFF#8 = x := BitVec.and_allOnes
  have hb (x : BitVec 16) : x &&& 0xFFFF#16 = x := BitVec.and_allOnes
  simp only [opcodeRows, List.cons_append, List.nil_append, List.forall_mem_cons, List.not_mem_nil, false_imp_iff,
    implies_true, and_eq_iff_fields, Opc.Heads]
  simp [Header.ofWord, hop, hb, and_rxRegMask_eq_zero, and_evEdgeMask_eq_zero]

/-- Every operation has its row. -/
theorem exists_row (o : Opc) : ∃ row ∈ opcodeRows, row.1 = o := by
  cases o <;> decide

/-- The table of rule R101 is the header's operand count. -/
theorem wordsAfter_eq (w : Word) : wordsAfter w = (Header.ofWord w).operandCount := by
  have hop : w.toNat / 2 ^ 24 = (Header.ofWord w).op.toNat := by
    simp only [Header.ofWord, BitVec.extractLsb'_toNat, Nat.shiftRight_eq_div_pow]
    omega
  have hb : w.toNat % 2 ^ 16 = (Header.ofWord w).b.toNat := by simp [Header.ofWord]
  rw [wordsAfter, hop, hb]
  simp [Header.operandCount, ← BitVec.toNat_inj]

end Sys2Proof.Claims

/-! SUPPORT. What the decoder answers, said once: from the words of an instruction, from a header word that names an operation
and from one that names none (rules R101, R103, R106, R107). -/

namespace Sys2Proof

/-- How the decoder reads an operation's operand words; `decode_of_opc` ties it to the decoder. -/
def Opc.operands (h : Header) : Opc → List Word → Decoded
  | .encNec => operands2 (.encNec h.b)
  | .encLg => operands2 (.encLg h.b)
  | .encPanasonic => operands2 (.encPanasonic h.b)
  | .raw => operandsRaw h.b.toNat
  | .repeatSeq => operands1 (.repeatSeq h.b)
  | .len => operands0 .len
  | .txConfig => operands0 (.txConfig h.a h.b)
  | .txSetup => operands0 .txSetup
  | .txSend => operands0 .txSend
  | .swCreate => operands0 (.swCreate h.b)
  | .swOn => operands0 (.swOn h.b)
  | .swOff => operands0 (.swOff h.b)
  | .rxSetup => operands0 (.rxSetup h.b)
  | .rxReg => operands2 (.rxReg (decModeOf h.a) (h.a.extractLsb' 0 4) h.b)
  | .rxDispatch => operands0 .rxDispatch
  | .evEdge => operands1 (.evEdge (h.a.getLsbD 0))
  | .evIdle => operands1 .evIdle
  | .evPlay => operands0 .evPlay
  | .evResume => operands0 .evResume

theorem decode_of_opc {w : Word} {o : Opc} (ho : (Header.ofWord w).opc = .ok o) (ws : List Word) :
    decode (w :: ws) = o.operands (Header.ofWord w) ws := by
  rw [decode, ho]
  cases o <;> rfl

theorem decode_of_illegal {w : Word} {why : IllegalHeader} (hw : (Header.ofWord w).opc = .error why) (ws : List Word) :
    decode (w :: ws) = operandsIllegal why (Header.ofWord w).operandCount ws := by
  simp only [decode, hw]

theorem operands1_eq_instr {k : Word → Instr} {ws rest : List Word} {i : Instr} :
    operands1 k ws = .instr i rest ↔ ∃ w1, ws = w1 :: rest ∧ i = k w1 := by
  cases ws <;> simp [operands1, eq_comm, and_comm]

theorem operands2_eq_instr {k : Word → Word → Instr} {ws rest : List Word} {i : Instr} :
    operands2 k ws = .instr i rest ↔ ∃ w1 w2, ws = w1 :: w2 :: rest ∧ i = k w1 w2 := by
  match ws with
  | [] | [_] => simp [operands2]
  | w1 :: w2 :: ws => simp [operands2, eq_comm, and_comm]

/-- `RAW` takes its carrier word and exactly `count` entries (rules R101, R103). -/
theorem operandsRaw_eq_instr {count : Nat} {ws rest : List Word} {i : Instr} :
    operandsRaw count ws = .instr i rest ↔
      ∃ carrier entries, ws = carrier :: (entries ++ rest) ∧ entries.length = count ∧ i = .raw carrier entries := by
  constructor
  · intro hdec
    match ws with
    | carrier :: ws =>
      rw [operandsRaw] at hdec
      split at hdec
      · cases hdec
      next henough =>
      cases hdec
      exact ⟨carrier, ws.take count, by rw [List.take_append_drop], List.length_take_of_le (not_lt.1 henough), rfl⟩
  · rintro ⟨carrier, entries, rfl, rfl, rfl⟩
    simp [operandsRaw]

/-! `RX.REG`'s and `EV.EDGE`'s sub-operand `A`, made and read back (rule R103). -/

theorem rxRegA_decModeOf (a : BitVec 8) (h : a.extractLsb' 4 3 = 0) : rxRegA (decModeOf a) (a.extractLsb' 0 4) = a := by
  revert a; decide

theorem evEdgeA_getLsbD (a : BitVec 8) (h : a.extractLsb' 1 7 = 0) : evEdgeA (a.getLsbD 0) = a := by
  revert a; decide

theorem decModeOf_rxRegA (mode : DecMode) (vendor : BitVec 4) : decModeOf (rxRegA mode vendor) = mode := by
  cases mode <;> revert vendor <;> decide

theorem extractLsb'_rxRegA (mode : DecMode) (vendor : BitVec 4) : (rxRegA mode vendor).extractLsb' 0 4 = vendor := by
  cases mode <;> revert vendor <;> decide

theorem getLsbD_evEdgeA (level : Level) : (evEdgeA level).getLsbD 0 = level := by
  cases level <;> rfl

/-- Reading an instruction's operand words after its header gives it back (rule R103). -/
theorem Instr.operands_operandWords {i : Instr} (hi : i.wellFormed = true) (rest : List Word) :
    i.opc.operands i.header (i.operandWords ++ rest) = .instr i rest := by
  cases i with
  | raw carrier entries =>
    have hlen : entries.length < 2 ^ 16 := of_decide_eq_true hi
    have hcount : entries.length = (BitVec.ofNat 16 entries.length).toNat :=
      (BitVec.toNat_ofNat _ _ |>.trans (Nat.mod_eq_of_lt hlen)).symm
    exact operandsRaw_eq_instr.2 ⟨carrier, entries, rfl, hcount, rfl⟩
  | rxReg mode vendor nbits expAddress expData =>
    refine operands2_eq_instr.2 ⟨expAddress, expData, rfl, ?_⟩
    rw [Instr.header, decModeOf_rxRegA, extractLsb'_rxRegA]
  | evEdge level t =>
    refine operands1_eq_instr.2 ⟨t, rfl, ?_⟩
    rw [Instr.header, getLsbD_evEdgeA]
  | _ => rfl

theorem decode_encode_append {i : Instr} (hi : i.wellFormed = true) (rest : List Word) :
    decode (encode i ++ rest) = .instr i rest := by
  rw [encode, List.cons_append, decode_of_opc (o := i.opc) (by simp), Header.ofWord_toWord, Instr.operands_operandWords hi]

/-- What is read after a header that names its operation is an instruction with that header and those operand words: the
bits of a header that reach no operand are the ones `Heads` fixes (rules R103, R106). -/
theorem Opc.Heads.of_operands {o : Opc} {h : Header} (ho : o.Heads h) {ws rest : List Word} {i : Instr}
    (hdec : o.operands h ws = .instr i rest) :
    i.wellFormed = true ∧ i.header = h ∧ i.operandWords ++ rest = ws := by
  obtain ⟨op, a, b⟩ := h
  cases o with
  | encNec | encLg | encPanasonic =>
    obtain ⟨rfl, rfl⟩ := ho
    obtain ⟨w1, w2, rfl, rfl⟩ := operands2_eq_instr.1 hdec
    exact ⟨rfl, rfl, rfl⟩
  | raw =>
    obtain ⟨rfl, rfl⟩ := ho
    obtain ⟨carrier, entries, rfl, hcount, rfl⟩ := operandsRaw_eq_instr.1 hdec
    exact ⟨by simp [Instr.wellFormed, hcount, b.isLt], by simp [Instr.header, hcount], rfl⟩
  | repeatSeq =>
    obtain ⟨rfl, rfl⟩ := ho
    obtain ⟨w1, rfl, rfl⟩ := operands1_eq_instr.1 hdec
    exact ⟨rfl, rfl, rfl⟩
  | txConfig =>
    obtain rfl := ho
    cases hdec
    exact ⟨rfl, rfl, rfl⟩
  | swCreate | swOn | swOff | rxSetup =>
    obtain ⟨rfl, rfl⟩ := ho
    cases hdec
    exact ⟨rfl, rfl, rfl⟩
  | rxReg =>
    obtain ⟨rfl, hzero⟩ := ho
    obtain ⟨w1, w2, rfl, rfl⟩ := operands2_eq_instr.1 hdec
    exact ⟨rfl, by rw [Instr.header, rxRegA_decModeOf a hzero], rfl⟩
  | evEdge =>
    obtain ⟨rfl, hzero, rfl⟩ := ho
    obtain ⟨w1, rfl, rfl⟩ := operands1_eq_instr.1 hdec
    exact ⟨rfl, by rw [Instr.header, evEdgeA_getLsbD a hzero], rfl⟩
  | evIdle =>
    obtain ⟨rfl, rfl, rfl⟩ := ho
    obtain ⟨w1, rfl, rfl⟩ := operands1_eq_instr.1 hdec
    exact ⟨rfl, rfl, rfl⟩
  | len | txSetup | txSend | rxDispatch | evPlay | evResume =>
    obtain ⟨rfl, rfl, rfl⟩ := ho
    cases hdec
    exact ⟨rfl, rfl, rfl⟩

theorem wellFormed_encode_of_decode {ws rest : List Word} {i : Instr} (hdec : decode ws = .instr i rest) :
    i.wellFormed = true ∧ encode i ++ rest = ws := by
  cases ws with
  | nil => cases hdec
  | cons w ws =>
    cases hopc : (Header.ofWord w).opc with
    | error why =>
      rw [decode_of_illegal hopc, operandsIllegal] at hdec
      split at hdec <;> cases hdec
    | ok o =>
      rw [decode_of_opc hopc] at hdec
      obtain ⟨hi, hheader, rfl⟩ := (Header.opc_eq_ok_iff.1 hopc).of_operands hdec
      exact ⟨hi, by rw [encode, hheader, Header.toWord_ofWord, List.cons_append]⟩

/-- An answer that takes exactly `n` words: truncated where there are fewer, else an instruction (rules R101, R107). -/
def Decoded.Takes (d : Decoded) (n : Nat) (ws : List Word) : Prop :=
  (ws.length < n ∧ d = .truncated) ∨ (n ≤ ws.length ∧ ∃ i, d = .instr i (ws.drop n))

theorem operands0_takes (i : Instr) (ws : List Word) : (operands0 i ws).Takes 0 ws :=
  .inr ⟨Nat.zero_le _, i, rfl⟩

theorem operands1_takes (k : Word → Instr) (ws : List Word) : (operands1 k ws).Takes 1 ws := by
  match ws with
  | [] => simp [Decoded.Takes, operands1]
  | w1 :: ws => simp [Decoded.Takes, operands1]

theorem operands2_takes (k : Word → Word → Instr) (ws : List Word) : (operands2 k ws).Takes 2 ws := by
  match ws with
  | [] | [_] => simp [Decoded.Takes, operands2]
  | w1 :: w2 :: ws => simp [Decoded.Takes, operands2]

theorem operandsRaw_takes (count : Nat) (ws : List Word) : (operandsRaw count ws).Takes (1 + count) ws := by
  rw [Nat.add_comm]
  cases ws with
  | nil => simp [Decoded.Takes, operandsRaw]
  | cons carrier ws => by_cases h : ws.length < count <;> simp [Decoded.Takes, operandsRaw, h, not_lt.1]

/-- The operand words read are as many as the header announces (rule R101). -/
theorem Opc.Heads.operands_takes {o : Opc} {h : Header} (ho : o.Heads h) (ws : List Word) :
    (o.operands h ws).Takes h.operandCount ws := by
  obtain ⟨op, a, b⟩ := h
  cases o with
  | encNec | encLg | encPanasonic | rxReg =>
    obtain ⟨rfl, -⟩ := ho
    exact operands2_takes _ ws
  | raw =>
    obtain ⟨rfl, -⟩ := ho
    exact operandsRaw_takes _ ws
  | repeatSeq | evEdge | evIdle =>
    obtain ⟨rfl, -⟩ := ho
    exact operands1_takes _ ws
  | txConfig =>
    obtain rfl := ho
    exact operands0_takes _ ws
  | len | txSetup | txSend | swCreate | swOn | swOff | rxSetup | rxDispatch | evPlay | evResume =>
    obtain ⟨rfl, -⟩ := ho
    exact operands0_takes _ ws

/-- Everything the decoder can answer after a header word, by the words that are there and by what the header names (rules
R101, R106, R107). -/
theorem decode_cons_cases (w : Word) (ws : List Word) :
    (ws.length < (Header.ofWord w).operandCount ∧ decode (w :: ws) = .truncated) ∨
    ((Header.ofWord w).operandCount ≤ ws.length ∧
      ((∃ o i, (Header.ofWord w).opc = .ok o ∧ decode (w :: ws) = .instr i (ws.drop (Header.ofWord w).operandCount)) ∨
        ∃ why, (Header.ofWord w).opc = .error why ∧
          decode (w :: ws) = .illegal why (ws.drop (Header.ofWord w).operandCount))) := by
  cases hopc : (Header.ofWord w).opc with
  | ok o =>
    rw [decode_of_opc hopc]
    obtain hshort | ⟨henough, i, hi⟩ := (Header.opc_eq_ok_iff.1 hopc).operands_takes ws
    · exact .inl hshort
    · exact .inr ⟨henough, .inl ⟨o, i, rfl, hi⟩⟩
  | error why =>
    rw [decode_of_illegal hopc, operandsIllegal]
    split
    next hshort => exact .inl ⟨hshort, rfl⟩
    next henough => exact .inr ⟨not_lt.1 henough, .inr ⟨why, rfl, rfl⟩⟩

/-- The header of a decoded instruction is the header word's (rules R100, R103). -/
theorem header_of_decode {w : Word} {ws rest : List Word} {i : Instr} (hdec : decode (w :: ws) = .instr i rest) :
    i.header = Header.ofWord w := by
  obtain ⟨-, hcut⟩ := wellFormed_encode_of_decode hdec
  rw [encode, List.cons_append, List.cons.injEq] at hcut
  rw [← hcut.1, Header.ofWord_toWord]

end Sys2Proof

namespace Sys2Proof.Claims

open Sys2Proof.Machine

/-- Settles O1: the header names the operation (`Instr.header_opc`) and its operand words read back. -/
theorem decodeEncodeRoundTrip : Obligations.DecodeEncodeRoundTrip := by
  unfold Obligations.DecodeEncodeRoundTrip
  exact fun i rest hi => decode_encode_append hi rest

/-- Settles O2: the bits of a header that reach no operand are fixed by the header's test. -/
theorem encodeDecodeRoundTrip : Obligations.EncodeDecodeRoundTrip := by
  unfold Obligations.EncodeDecodeRoundTrip
  exact fun ws i rest hdec => wellFormed_encode_of_decode hdec

/-- Settles O3, by what the decoder can answer after a header word. -/
theorem commandLengthFromHeader : Obligations.CommandLengthFromHeader := by
  unfold Obligations.CommandLengthFromHeader
  intro w ws
  rw [wordsAfter_eq]
  obtain ⟨hshort, hdec⟩ | ⟨henough, ⟨o, i, -, hdec⟩ | ⟨why, -, hdec⟩⟩ := decode_cons_cases w ws
  · exact ⟨fun _ => hdec, fun h => absurd hshort h.not_gt⟩
  · exact ⟨fun h => absurd h henough.not_gt, fun _ => .inl ⟨i, hdec⟩⟩
  · exact ⟨fun h => absurd h henough.not_gt, fun _ => .inr ⟨why, hdec⟩⟩

/-- Settles O4: the decoded instruction has the header of the word, which names an operation exactly when its row matches. -/
theorem decodeFollowsOpcodeTable : Obligations.DecodeFollowsOpcodeTable := by
  unfold Obligations.DecodeFollowsOpcodeTable
  intro row hrow w ws hwords
  rw [wordsAfter_eq] at hwords
  rw [← heads_iff_row_matches row hrow w, ← Header.opc_eq_ok_iff]
  constructor
  · rintro ⟨i, rest, hdec, hopc⟩
    rwa [header_of_decode hdec] at hopc
  · intro hopc
    obtain ⟨hshort, -⟩ | ⟨-, ⟨o, i, -, hdec⟩ | ⟨why, herr, -⟩⟩ := decode_cons_cases w ws
    · exact absurd hshort hwords.not_gt
    · exact ⟨i, _, hdec, by rwa [header_of_decode hdec]⟩
    · cases hopc.symm.trans herr

/-- Settles O5: every operation has a row, so a word that no row matches names none. -/
theorem illegalCommandRaisesInvalidArgument : Obligations.IllegalCommandRaisesInvalidArgument := by
  unfold Obligations.IllegalCommandRaisesInvalidArgument
  intro s w ws hstream hwords hrows
  rw [wordsAfter_eq] at hwords ⊢
  have hnone (o : Opc) : (Header.ofWord w).opc ≠ .ok o := by
    intro hopc
    obtain ⟨row, hrow, rfl⟩ := exists_row o
    exact hrows row hrow ((heads_iff_row_matches row hrow w).1 (Header.opc_eq_ok_iff.1 hopc))
  obtain ⟨hshort, -⟩ | ⟨-, ⟨o, i, hopc, -⟩ | ⟨why, -, hdec⟩⟩ := decode_cons_cases w ws
  · exact absurd hshort hwords.not_gt
  · exact absurd hopc (hnone o)
  · have hstep : step s = illegalCommand (s.consume (ws.drop (Header.ofWord w).operandCount)) := by
      rw [step, fetch, hstream, hdec]
    rw [hstep]
    exact ⟨fun hfree => illegalCommand_next.2 ⟨hfree, rfl⟩, fun hheld => hostStep_blocked _ hheld⟩

/-- Settles O6, by running the decoder on each word list. -/
theorem specWordsDecode : Obligations.SpecWordsDecode := by
  unfold Obligations.SpecWordsDecode
  exact ⟨rfl, rfl, rfl, rfl, rfl, rfl, rfl⟩

/-- Settles O7: `step` is a match on what `fetch` decodes. -/
theorem stepRunsDecodedInstruction : Obligations.StepRunsDecodedInstruction := by
  unfold Obligations.StepRunsDecodedInstruction
  intro s
  refine ⟨fun i rest hdec => ?_, fun hdec => ?_, fun hempty => ?_⟩
  · rw [step, fetch, hdec]; rfl
  · rw [step, fetch, hdec]
  · rw [step, fetch, hempty, decode]

end Sys2Proof.Claims

/-! SUPPORT. The entries of a bit as signed microseconds, and the bit sent as a digit of the frame word (rules R80, R85, R87). -/

namespace Sys2Proof.Machine

theorem bitMark_toInt {P : Descriptor} (hP : P.Valid) (b : Bool) :
    (bitMark P b).toInt = if P.bitInMark then (bitUs P b : Int) else (P.bitFixedUs : Int) := by
  unfold bitMark
  split
  · exact mark_toInt (bitUs_legal hP b).2
  · exact mark_toInt hP.bitFixed.2

theorem bitSpace_toInt {P : Descriptor} (hP : P.Valid) (b : Bool) :
    (bitSpace P b).toInt = if P.bitInMark then -(P.bitFixedUs : Int) else -(bitUs P b : Int) := by
  unfold bitSpace
  split
  · exact space_toInt hP.bitFixed.2
  · exact space_toInt (bitUs_legal hP b).2

theorem sentBit_iff (P : Descriptor) (word nbits k : Nat) :
    sentBit P word nbits k = true ↔ (if P.msbFirst then word / 2 ^ (nbits - 1 - k) else word / 2 ^ k) % 2 = 1 := by
  unfold sentBit
  split <;> simp [Nat.testBit_eq_decide_div_mod_eq]

end Sys2Proof.Machine

/-! SUPPORT. How long the spans of a send last (rules R94, R135, R160, R162, R166). -/

namespace Sys2Proof.Machine

open Sys2Proof.Claims

/-- Passes with gaps between them are the first pass, then each other pass with a gap in front (rule R160). -/
theorem intercalate_replicate_succ (gap pass : List Span) (n : Nat) :
    gap.intercalate (List.replicate (n + 1) pass) = pass ++ (List.replicate n (gap ++ pass)).flatten := by
  induction n with
  | zero => simp
  | succ n ih =>
    rw [List.replicate_succ, List.intercalate_cons_of_ne_nil (by simp), ih, List.replicate_succ, List.flatten_cons]
    simp only [List.append_assoc]

theorem traceUs_flatten_replicate (n : Nat) (trace : List Span) :
    traceUs (List.replicate n trace).flatten = n * traceUs trace := by
  induction n with
  | zero => simp
  | succ n ih =>
    rw [List.replicate_succ, List.flatten_cons, traceUs_append, ih]
    push_cast
    ring

/-- Repeated passes last so many passes and one gap less (rules R94, R135, R160). -/
theorem traceUs_repeated (q : PulseSeq) (pass : List Span) : traceUs (repeated q pass) =
    q.repeatCount.toNat * traceUs pass + (q.repeatCount.toNat - 1 : Nat) * q.repeatGap.toNat := by
  rw [repeated]
  cases q.repeatCount.toNat with
  | zero => simp
  | succ n =>
    rw [intercalate_replicate_succ, traceUs_append, traceUs_flatten_replicate]
    simp
    ring

/-- The gap a bit-bang send puts in front of every pass but the first stands between the passes (rules R160, R162). -/
theorem bitbangSpans_eq_repeated (q : PulseSeq) : bitbangSpans q = repeated q (passSpans q) := by
  rw [bitbangSpans, repeated]
  cases q.repeatCount.toNat with
  | zero => simp
  | succ n =>
    rw [intercalate_replicate_succ, List.range_succ_eq_map, List.flatMap_cons, List.flatMap_map]
    simp [gapSpan, usSpan, List.flatMap, List.map_const']

/-- A pass timed by the processor lasts as long as its entries (rules R94, R162). -/
theorem traceUs_passSpans (q : PulseSeq) : traceUs (passSpans q) = spanUs q.durations := by
  rw [traceUs_one_unit (unit := 10) (by simp [passSpans, usSpan])]
  simp [passSpans, usSpan, spanUs, usOf, Function.comp_def]

/-- With a tick rate that is a multiple of 10 no entry loses a part of a tick (rules R166, R174). -/
theorem sum_ticks_toItems {rate : Nat} (hrate : rate % 10 = 0) (itemTickMax : Nat) (d : List Duration) :
    10 * ((toItems rate itemTickMax d).map (·.ticks)).sum = rate * spanUs d := by
  induction d with
  | nil => rfl
  | cons e d ih =>
    have hexact : 10 * ticksOf rate e = usOf e * rate :=
      Nat.mul_div_cancel' (dvd_mul_of_dvd_right (Nat.dvd_of_mod_eq_zero hrate) _)
    have hitems : ((itemsOf rate itemTickMax e).map (·.ticks)).sum = ticksOf rate e := splitTicks_sum ..
    have hspan : spanUs (e :: d) = usOf e + spanUs d := by simp [spanUs, usOf]
    calc 10 * ((toItems rate itemTickMax (e :: d)).map (·.ticks)).sum
      _ = 10 * ticksOf rate e + 10 * ((toItems rate itemTickMax d).map (·.ticks)).sum := by
        rw [toItems, List.flatMap_cons, List.map_append, List.sum_append, hitems, Nat.mul_add, toItems]
      _ = rate * spanUs (e :: d) := by rw [hexact, ih, hspan]; ring

/-- A peripheral pass then lasts as long as its entries (rules R94, R174). -/
theorem traceUs_itemPass {s : State} (q : PulseSeq) (hpos : 0 < s.ticksPer10us.toNat)
    (hrate : s.ticksPer10us.toNat % 10 = 0) :
    traceUs (itemPass s q) = spanUs q.durations := by
  have hlens : (itemPass s q).map (·.len) = (toItems s.ticksPer10us.toNat s.cfg.itemTickMax q.durations).map (·.ticks) := by
    simp [itemPass]
  have hticks := sum_ticks_toItems hrate s.cfg.itemTickMax q.durations
  have hne : (s.ticksPer10us.toNat : ℚ) ≠ 0 := by exact_mod_cast hpos.ne'
  rw [traceUs_one_unit (unit := s.ticksPer10us.toNat) (by simp [itemPass]), div_eq_iff hne, hlens, mul_comm,
    mul_comm (spanUs _ : ℚ)]
  exact_mod_cast hticks

/-- The spans a bit-bang send adds (rules R153, R162). -/
theorem send_bitbang_txTrace {q : PulseSeq} {s t : State} (hready : s.txReady = true) (hd : q.durations ≠ [])
    (hbackend : s.cfg.backend = .bitbang) (h : send q s = .next t) : t.txTrace = s.txTrace ++ bitbangSpans q := by
  obtain ⟨hr, -⟩ | ⟨-, hd', -⟩ | ⟨-, -, hb, -⟩ | ⟨-, -, -, rfl⟩ | ⟨-, -, hb, -⟩ := send_next h
  · cases hready.symm.trans hr
  · exact absurd hd' hd
  · cases hbackend.symm.trans hb
  · simp [State.bitbangSend_eq]
  · cases hbackend.symm.trans hb

/-- A command that sends and completes does so through `send` (rules R155, R182). -/
theorem exec_sends_next {i : Instr} {s t : State} {q : PulseSeq} (hi : Sends i s q) (h : exec i s = .next t) :
    send q s = .next t := by
  obtain ⟨rfl, rfl⟩ | ⟨handle, slot, rfl, hslot, rfl⟩ := hi
  · exact (execTxSend_next.1 h).2
  · obtain ⟨-, ⟨hnone, -⟩ | ⟨slot', hslot', hsend⟩⟩ := execSwOn_next.1 h
    · cases hslot.symm.trans hnone
    · cases hslot.symm.trans hslot'
      exact hsend

end Sys2Proof.Machine

namespace Sys2Proof.Claims

open Sys2Proof.Machine

/-- Settles O21, from the entries of a frame. -/
theorem frameLayout : Obligations.FrameLayout := by
  unfold Obligations.FrameLayout
  intro P address data nbits F hP henc word one G
  obtain ⟨-, -, -, hF⟩ := encodeFrame_some.1 henc
  have hF : F = frameOf P word nbits := hF
  have hG {j : Nat} {e : Duration} (he : (frameOf P word nbits)[j]? = some e) : G[j]? = some e.toInt := by
    simp [G, hF, he]
  have hone (k : Nat) : one k ↔ sentBit P word nbits k = true := (sentBit_iff P word nbits k).symm
  have hbit {k : Nat} (hk : k < nbits) :
      G[2 + 2 * k]? = some (bitMark P (sentBit P word nbits k)).toInt ∧
        G[3 + 2 * k]? = some (bitSpace P (sentBit P word nbits k)).toInt :=
    (frameOf_bit P word hk).imp hG hG
  obtain ⟨hmark, hspace⟩ := frameOf_header P word nbits
  refine ⟨?_, ?_, ?_, fun k hk hvariant => ?_, fun k hk hvariant => ?_, fun hstop => ?_⟩
  · cases hstop : P.hasStop <;> simp [G, hF, frameOf_length, need, hstop]
  · rw [hG hmark, mark_toInt hP.hdrMark.2]
  · rw [hG hspace, space_toInt hP.hdrSpace.2]
  · simp +contextual [hbit hk, bitMark_toInt hP, bitSpace_toInt hP, hone, hvariant, bitUs]
  · simp +contextual [hbit hk, bitMark_toInt hP, bitSpace_toInt hP, hone, hvariant, bitUs]
  · rw [hG (frameOf_stop P word nbits hstop), mark_toInt hP.stopMark.2]

/-- Settles O45: both backends play `repeated` passes, and a pass lasts as long as its entries. -/
theorem traceLastsTotalLength : Obligations.TraceLastsTotalLength := by
  unfold Obligations.TraceLastsTotalLength
  refine ⟨fun i s t q _ hsends hready hd hbackend hexec => ?_, fun s q hpos hrate => ?_,
    fun rate itemTickMax d hrate => sum_ticks_toItems hrate itemTickMax d⟩
  · rw [send_bitbang_txTrace hready hd hbackend (exec_sends_next hsends hexec), List.drop_left,
      bitbangSpans_eq_repeated, traceUs_repeated, traceUs_passSpans]
    push_cast
    rfl
  · rw [traceUs_repeated, traceUs_itemPass q hpos hrate]
    push_cast
    rfl

end Sys2Proof.Claims

/-! SUPPORT. Decoding the durations of a frame: each discriminating duration is its bit's reference, and the weights of the bits
sent add up to the frame word (rules R87, R137, R233 to R236). -/

namespace Sys2Proof.Machine

/-- A bit's reference duration classifies as the bit: it lies in its own window, and where the windows overlap it is the nearer
reference (rule R233). -/
theorem classify_bitUs {P : Descriptor} (hne : P.bitZeroUs ≠ P.bitOneUs) (tol : Nat) (b : Bool) :
    classify tol (bitUs P b) P = some b := by
  have hself := within_self tol (bitUs P b)
  cases b with
  | false =>
    have hnearer : ¬distance P.bitZeroUs P.bitOneUs ≤ distance P.bitZeroUs P.bitZeroUs := by unfold distance; omega
    simp only [bitUs, Bool.false_eq_true, if_false] at hself
    simp [classify, bitUs, hself, hnearer]
  | true =>
    have hnearer : distance P.bitOneUs P.bitOneUs ≤ distance P.bitOneUs P.bitZeroUs := by unfold distance; omega
    simp only [bitUs, if_true] at hself
    simp [classify, bitUs, hself, hnearer]

/-- The capture of a sequence holds the magnitude of each entry, in place (rules R81, R215). -/
theorem captureOf_getElem? {F : List Duration} {i : Nat} {e : Duration} (h : F[i]? = some e) :
    (captureOf F)[i]? = some (BitVec.ofNat 32 (usOf e)) := by
  simp [captureOf, h]

/-- The magnitude of an entry fits a capture entry (rule R7). -/
theorem toNat_ofNat_of_usLegal {d : Nat} (h : usLegal d) : (BitVec.ofNat 32 d).toNat = d := by
  rw [BitVec.toNat_ofNat]
  exact Nat.mod_eq_of_lt (by have := h.2; omega)

/-- The discriminating duration of bit `k` in the capture of a frame is the reference of the bit sent (rules R85, R236). -/
theorem captureOf_frameOf_bit {P : Descriptor} (hP : P.Valid) (word : Nat) {nbits k : Nat} (hk : k < nbits) :
    (captureOf (frameOf P word nbits))[bitIndex P k]? = some (BitVec.ofNat 32 (bitUs P (sentBit P word nbits k))) := by
  obtain ⟨hmark, hspace⟩ := frameOf_bit P word hk
  have hlt := (bitUs_legal hP (sentBit P word nbits k)).2
  cases hvariant : P.bitInMark with
  | true => simp [bitIndex, hvariant, captureOf_getElem? hmark, bitMark, usOf_mark hlt]
  | false => simp [bitIndex, hvariant, captureOf_getElem? hspace, bitSpace, usOf_space hlt]

/-- A header duration of a frame is inside its own window (rule R235). -/
theorem entryWithin_of_ref {x : List (BitVec 32)} {i ref : Nat} (href : usLegal ref) (tol : Nat)
    (h : x[i]? = some (BitVec.ofNat 32 ref)) : entryWithin tol x i ref = true :=
  (entryWithin_iff ..).2 ⟨_, h, by rw [toNat_ofNat_of_usLegal href]; exact within_self tol ref⟩

/-- The binary digits of a number, each with its weight, add up to its low bits. -/
theorem sum_range_testBit (word n : Nat) :
    ((List.range n).map fun k => if word.testBit k then 2 ^ k else 0).sum = word % 2 ^ n := by
  induction n with
  | zero => simp [Nat.mod_one]
  | succ n ih =>
    rw [List.sum_range_succ, ih, Nat.mod_pow_succ, ← Nat.toNat_testBit]
    cases word.testBit n <;> simp

/-- The weights of the bits sent add up to the frame word, in either bit order (rules R87, R236). -/
theorem sum_sentBit_weights (P : Descriptor) {word nbits : Nat} (hword : word < 2 ^ nbits) :
    ((List.range nbits).map fun k => if sentBit P word nbits k then bitWeight P nbits k else 0).sum = word := by
  have hlsb := sum_range_testBit word nbits
  rw [Nat.mod_eq_of_lt hword] at hlsb
  cases horder : P.msbFirst with
  | false => simpa [sentBit, bitWeight, horder] using hlsb
  | true =>
    have hreflect := Finset.sum_range_reflect (fun k => if word.testBit k then 2 ^ k else 0) nbits
    simp only [sentBit, bitWeight, horder, if_true]
    exact hreflect.trans hlsb

/-- Reading the capture of a frame gives the frame word (rule R236). -/
theorem readBits_captureOf_frameOf {P : Descriptor} (hP : P.Valid) (hne : P.bitZeroUs ≠ P.bitOneUs) (tol : Nat)
    {word nbits : Nat} (hword : word < 2 ^ nbits) :
    readBits tol P nbits (captureOf (frameOf P word nbits)) nbits = some word := by
  refine (readBits_some ..).2 ⟨sentBit P word nbits, fun k hk => ?_, (sum_sentBit_weights P hword).symm⟩
  refine ⟨_, captureOf_frameOf_bit hP word hk, ?_⟩
  rw [toNat_ofNat_of_usLegal (bitUs_legal hP _)]
  exact classify_bitUs hne tol _

/-- Decoding the capture of a frame splits the frame word into its fields (rules R234 to R236). -/
theorem decodeFrame_captureOf_frameOf {P : Descriptor} (hP : P.Valid) (hne : P.bitZeroUs ≠ P.bitOneUs) (tol : Nat)
    {word nbits : Nat} (hword : word < 2 ^ nbits) :
    decodeFrame tol P nbits (captureOf (frameOf P word nbits)) =
      some (wordAddress P nbits word, wordData P nbits word) := by
  obtain ⟨hmark, hspace⟩ := frameOf_header P word nbits
  have hlength : (captureOf (frameOf P word nbits)).length = need P nbits := by simp [captureOf, frameOf_length]
  have hmark := entryWithin_of_ref hP.hdrMark tol (by simpa [usOf_mark hP.hdrMark.2] using captureOf_getElem? hmark)
  have hspace := entryWithin_of_ref hP.hdrSpace tol (by simpa [usOf_space hP.hdrSpace.2] using captureOf_getElem? hspace)
  simp [decodeFrame, hlength, hmark, hspace, readBits_captureOf_frameOf hP hne tol hword]

/-- Fields that fit make a frame word that fits (rule R86). -/
theorem frameWord_lt {P : Descriptor} {nbits address data : Nat} (hbits : P.addrBits ≤ nbits)
    (ha : address < 2 ^ P.addrBits) (hd : data < 2 ^ dataBits P nbits) : frameWord P nbits address data < 2 ^ nbits := by
  calc frameWord P nbits address data
    _ < (address + 1) * 2 ^ dataBits P nbits := by rw [frameWord]; linarith
    _ ≤ 2 ^ P.addrBits * 2 ^ dataBits P nbits := Nat.mul_le_mul_right _ ha
    _ = 2 ^ nbits := by rw [← Nat.pow_add, dataBits, Nat.add_sub_cancel' hbits]

/-- A frame word splits back into the address and data that made it (rule R86). -/
theorem frameWord_split (P : Descriptor) {nbits address data : Nat} (hd : data < 2 ^ dataBits P nbits) :
    wordAddress P nbits (frameWord P nbits address data) = address ∧
      wordData P nbits (frameWord P nbits address data) = data := by
  have hpos : 0 < 2 ^ dataBits P nbits := by positivity
  rw [frameWord, wordAddress, wordData, Nat.mul_comm, Nat.mul_add_div hpos, Nat.mul_add_mod, Nat.div_eq_of_lt hd,
    Nat.mod_eq_of_lt hd]
  exact ⟨rfl, rfl⟩

/-- The capture of an encoded command decodes to its fields (rule R137). -/
theorem decodeFrame_captureOf_encode {P : Descriptor} (hP : P.Valid) (hne : P.bitZeroUs ≠ P.bitOneUs) (tol : Nat)
    {address data nbits : Nat} {F : List Duration} (henc : encodeFrame P address data nbits = some F) :
    decodeFrame tol P nbits (captureOf F) = some (address, data) := by
  obtain ⟨⟨hmin, -⟩, ha, hd, rfl⟩ := encodeFrame_some.1 henc
  have hbits : P.addrBits ≤ nbits := by have := hP.addrBelow; omega
  obtain ⟨haddress, hdata⟩ := frameWord_split P (address := address) hd
  rw [decodeFrame_captureOf_frameOf hP hne tol (frameWord_lt hbits ha hd), haddress, hdata]

end Sys2Proof.Machine

namespace Sys2Proof.Claims

open Sys2Proof.Machine

/-- Settles O30: the capture of a frame reads back as its frame word, and the word splits into the fields. -/
theorem decodeOfEncodeIsTheCommand : Obligations.DecodeOfEncodeIsTheCommand := by
  unfold Obligations.DecodeOfEncodeIsTheCommand
  refine ⟨fun tol P nbits address data hP hne hmin hmax ha hd => ?_, fun P hmem => ?_⟩
  · have henc := encodeFrame_some.2 ⟨⟨hmin, hmax⟩, ha, hd, rfl⟩
    exact ⟨_, henc, decodeFrame_captureOf_encode hP hne tol henc⟩
  · simp only [List.mem_cons, List.not_mem_nil, or_false] at hmem
    obtain rfl | rfl | rfl := hmem <;> exact ⟨desc_valid_of_check (by decide), by decide⟩

end Sys2Proof.Claims

/-! SUPPORT. What an encoder command answers when the host is free: the frame where the fields fit, `InvalidArgument` where they
do not (rules R120, R124, R125). -/

namespace Sys2Proof.Machine

open Sys2Proof.Claims

/-- What `encode` asks of the bit count and the two fields (rules R86, R120). -/
def FieldsFit (P : Descriptor) (address data nbits : Nat) : Prop :=
  (P.nbitsMin ≤ nbits ∧ nbits ≤ P.nbitsMax) ∧ address < 2 ^ P.addrBits ∧ data < 2 ^ dataBits P nbits

theorem encodeFrame_of_fieldsFit {P : Descriptor} {address data nbits : Nat} (h : FieldsFit P address data nbits) :
    encodeFrame P address data nbits = some (frameOf P (frameWord P nbits address data) nbits) := by
  obtain ⟨hbits, haddress, hdata⟩ := h
  exact encodeFrame_some.2 ⟨hbits, haddress, hdata, rfl⟩

theorem encodeFrame_of_not_fieldsFit {P : Descriptor} {address data nbits : Nat}
    (h : ¬FieldsFit P address data nbits) : encodeFrame P address data nbits = none := by
  refine Option.eq_none_iff_forall_ne_some.2 fun F henc => h ?_
  obtain ⟨hbits, haddress, hdata, -⟩ := encodeFrame_some.1 henc
  exact ⟨hbits, haddress, hdata⟩

theorem encodeCommand_of_encode {v : Vendor} {s : State} {nbits : BitVec 16} {address data : Word} {F : List Duration}
    (hfree : s.engActive = false)
    (henc : encodeFrame (s.cfg.desc v) address.toNat data.toNat nbits.toNat = some F) :
    encodeCommand v nbits address data s =
      .next { s with seq := ⟨(s.cfg.desc v).carrierHz, F, 1, 0⟩, status := 0, result := none } := by
  rw [encodeCommand, hostStep_free _ hfree, henc]
  rfl

theorem encodeCommand_of_not_fieldsFit {v : Vendor} {s : State} {nbits : BitVec 16} {address data : Word}
    (hfree : s.engActive = false) (h : ¬FieldsFit (s.cfg.desc v) address.toNat data.toNat nbits.toNat) :
    encodeCommand v nbits address data s = failed s 1 := by
  rw [encodeCommand, hostStep_free _ hfree, encodeFrame_of_not_fieldsFit h]
  rfl

/-- The assembler's encoder command of a vendor runs that vendor's encoder (rules R109, R121 to R123). -/
theorem exec_encInstr (v : Vendor) (address data : Word) (nbits : BitVec 16) (s : State) :
    exec (encInstr v address data nbits) s = encodeCommand v nbits address data s := by
  cases v <;> rfl

/-- A protocol of the spec's kind: the space's length is the bit, the most significant bit goes first and a stop mark ends the
frame (rules R32 to R34). -/
structure SpaceEncoded (P : Descriptor) : Prop where
  valid : P.Valid
  inSpace : P.bitInMark = false
  msb : P.msbFirst = true
  stop : P.hasStop = true

/-- The frame such a protocol encodes (rules R85, R88 to R90). -/
theorem encodeFrame_frameIs {P : Descriptor} (hP : SpaceEncoded P) {address data nbits : Nat}
    {F : List Duration} (henc : encodeFrame P address data nbits = some F) :
    FrameIs F (frameWord P nbits address data) nbits P.hdrMarkUs P.hdrSpaceUs P.bitFixedUs P.bitZeroUs P.bitOneUs
      P.stopMarkUs := by
  obtain ⟨hlength, hmark, hspace, hbits, -, hstop⟩ := frameLayout P address data nbits F hP.valid henc
  simp only [hP.stop, hP.msb, if_true] at hlength hbits
  refine ⟨by omega, hmark, hspace, fun k hk => ?_, hstop hP.stop⟩
  obtain ⟨hfixed, hone, hzero⟩ := hbits k hk hP.inSpace
  refine ⟨hfixed, ?_⟩
  split
  · next hbit => exact hone hbit
  · next hbit => exact hzero hbit

/-- An encoder command of such a protocol, both outcomes (rules R120, R124, R125). -/
theorem encodeCommand_spaceEncoded {v : Vendor} {P : Descriptor} {s : State} (hP : SpaceEncoded P)
    (hdesc : s.cfg.desc v = P) (hfree : s.engActive = false) (nbits : BitVec 16) (address data : Word) :
    (FieldsFit P address.toNat data.toNat nbits.toNat →
      ∃ F, FrameIs F (frameWord P nbits.toNat address.toNat data.toNat) nbits.toNat P.hdrMarkUs P.hdrSpaceUs P.bitFixedUs
          P.bitZeroUs P.bitOneUs P.stopMarkUs ∧
        encodeCommand v nbits address data s =
          .next { s with seq := ⟨P.carrierHz, F, 1, 0⟩, status := 0, result := none }) ∧
    (¬FieldsFit P address.toNat data.toNat nbits.toNat → encodeCommand v nbits address data s = failed s 1) := by
  subst hdesc
  refine ⟨fun h => ?_, encodeCommand_of_not_fieldsFit hfree⟩
  have henc := encodeFrame_of_fieldsFit h
  exact ⟨_, encodeFrame_frameIs hP henc, encodeCommand_of_encode hfree henc⟩

theorem spaceEncoded_descNEC : SpaceEncoded descNEC := ⟨desc_valid_of_check (by decide), rfl, rfl, rfl⟩

theorem spaceEncoded_descLG : SpaceEncoded descLG := ⟨desc_valid_of_check (by decide), rfl, rfl, rfl⟩

theorem spaceEncoded_descPanasonic : SpaceEncoded descPanasonic :=
  ⟨desc_valid_of_check (by decide), rfl, rfl, rfl⟩

theorem fieldsFit_descNEC_iff {address data nbits : Nat} :
    FieldsFit descNEC address data nbits ↔ nbits = 32 ∧ address < 2 ^ 16 ∧ data < 2 ^ 16 := by
  constructor
  · rintro ⟨⟨hmin, hmax⟩, haddress, hdata⟩
    obtain rfl : nbits = 32 := le_antisymm hmax hmin
    exact ⟨rfl, haddress, hdata⟩
  · rintro ⟨rfl, haddress, hdata⟩
    exact ⟨⟨le_rfl, le_rfl⟩, haddress, hdata⟩

theorem fieldsFit_descLG_iff {address data nbits : Nat} :
    FieldsFit descLG address data nbits ↔ 1 ≤ nbits ∧ nbits ≤ 32 ∧ address = 0 ∧ data < 2 ^ nbits := by
  have haddress : address < 2 ^ descLG.addrBits ↔ address = 0 := Nat.lt_one_iff
  rw [FieldsFit, haddress, and_assoc]
  rfl

/-- A word of data always fits the 32-bit field of Panasonic (rule R123). -/
theorem fieldsFit_descPanasonic_iff {address nbits : Nat} {data : Word} :
    FieldsFit descPanasonic address data.toNat nbits ↔ nbits = 48 ∧ address < 2 ^ 16 := by
  constructor
  · rintro ⟨⟨hmin, hmax⟩, haddress, -⟩
    exact ⟨le_antisymm hmax hmin, haddress⟩
  · rintro ⟨rfl, haddress⟩
    exact ⟨⟨le_rfl, le_rfl⟩, haddress, data.isLt⟩

end Sys2Proof.Machine

namespace Sys2Proof.Claims

open Sys2Proof.Machine

/-- Settles O22, the case of `encodeCommand_spaceEncoded` for NEC. -/
theorem encNecBuildsItsFrame : Obligations.EncNecBuildsItsFrame := by
  unfold Obligations.EncNecBuildsItsFrame
  intro s nbits address command hfree hdesc
  obtain ⟨hfits, hfails⟩ :=
    encodeCommand_spaceEncoded (v := .nec) spaceEncoded_descNEC hdesc hfree nbits address command
  refine ⟨fun h => ?_, fun h => hfails (mt fieldsFit_descNEC_iff.1 h)⟩
  obtain ⟨F, hframe, hexec⟩ := hfits (fieldsFit_descNEC_iff.2 h)
  rw [h.1] at hframe
  exact ⟨F, hframe, hexec⟩

/-- Settles O23, the case of `encodeCommand_spaceEncoded` for LG, whose frame word is the data. -/
theorem encLgBuildsItsFrame : Obligations.EncLgBuildsItsFrame := by
  unfold Obligations.EncLgBuildsItsFrame
  intro s nbits address data hfree hdesc
  obtain ⟨hfits, hfails⟩ := encodeCommand_spaceEncoded (v := .lg) spaceEncoded_descLG hdesc hfree nbits address data
  have hzero : address = 0 ↔ address.toNat = 0 := BitVec.toNat_inj.symm
  rw [hzero]
  refine ⟨fun h => ?_, fun h => hfails (mt fieldsFit_descLG_iff.1 h)⟩
  obtain ⟨F, hframe, hexec⟩ := hfits (fieldsFit_descLG_iff.2 h)
  obtain ⟨-, -, haddress, -⟩ := h
  have hword : frameWord descLG nbits.toNat address.toNat data.toNat = data.toNat := by simp [frameWord, haddress]
  rw [hword] at hframe
  exact ⟨F, hframe, hexec⟩

/-- Settles O24, the case of `encodeCommand_spaceEncoded` for Panasonic. -/
theorem encPanasonicBuildsItsFrame : Obligations.EncPanasonicBuildsItsFrame := by
  unfold Obligations.EncPanasonicBuildsItsFrame
  intro s nbits address data hfree hdesc
  obtain ⟨hfits, hfails⟩ :=
    encodeCommand_spaceEncoded (v := .panasonic) spaceEncoded_descPanasonic hdesc hfree nbits address data
  refine ⟨fun h => ?_, fun h => hfails (mt fieldsFit_descPanasonic_iff.1 h)⟩
  obtain ⟨F, hframe, hexec⟩ := hfits (fieldsFit_descPanasonic_iff.2 h)
  rw [h.1] at hframe
  exact ⟨F, hframe, hexec⟩

end Sys2Proof.Claims

/-! SUPPORT. Alternating sequences by their entries, and the longest total a sequence can last (rules R80, R126, R129, R135). -/

namespace Sys2Proof.Machine

open Sys2Proof.Claims

theorem alternates_iff_isChain (d : List Duration) :
    alternates d = true ↔ (∀ e ∈ d, entryLegal e = true) ∧ d.IsChain fun e f => levelOf e ≠ levelOf f := by
  induction d using alternates.induct with
  | case1 => simp [alternates]
  | case2 e => simp [alternates]
  | case3 e f rest ih =>
    simp only [alternates, Bool.and_eq_true, bne_iff_ne, ih, List.isChain_cons_cons, List.forall_mem_cons]
    tauto

theorem alternates_iff (d : List Duration) :
    alternates d = true ↔ (∀ e ∈ d, entryLegal e = true) ∧
      ∀ (k : Nat) (e f : Duration), d[k]? = some e → d[k + 1]? = some f → levelOf e ≠ levelOf f := by
  rw [alternates_iff_isChain, List.isChain_iff_getElem]
  refine and_congr_right fun _ => ⟨fun h k e f he hf => ?_, fun h k hk => ?_⟩
  · obtain ⟨hk, rfl⟩ := List.getElem?_eq_some_iff.1 hf
    obtain ⟨-, rfl⟩ := List.getElem?_eq_some_iff.1 he
    exact h k hk
  · exact h k _ _ (List.getElem?_eq_getElem _) (List.getElem?_eq_getElem _)

/-- Two legal neighbours differ in level exactly when they have opposite signs (rules R80, R129). -/
theorem levelOf_ne_iff {e f : Duration} (hf : f.toInt ≠ 0) :
    levelOf e ≠ levelOf f ↔ (0 < e.toInt ↔ f.toInt < 0) := by
  have hsign : 0 < f.toInt ↔ ¬f.toInt < 0 := by omega
  simp only [levelOf, ne_eq, decide_eq_decide, hsign]
  tauto

/-- A well-formed sequence, its entries as signed microseconds (rule R129). -/
theorem wfDurations_iff (cap : Nat) (d : List Duration) :
    wfDurations cap d = true ↔ d.length ≤ cap ∧ (∀ e ∈ d, e.toInt ≠ 0 ∧ e.toInt ≠ -2 ^ 31) ∧
      ∀ (k : Nat) (e f : Duration), d[k]? = some e → d[k + 1]? = some f → (0 < e.toInt ↔ f.toInt < 0) := by
  simp only [wfDurations, Bool.and_eq_true, decide_eq_true_eq, alternates_iff, entryLegal_iff]
  refine and_congr_right fun _ => and_congr_right fun hlegal => ?_
  refine forall₅_congr fun k e f _ hf => ?_
  exact levelOf_ne_iff (hlegal f (List.mem_of_getElem? hf)).1

/-- In an alternating sequence that begins with a mark the even entries are the marks (rules R85, R126). -/
theorem levelOf_of_alternates {d : List Duration} (h : alternates d = true) (hfirst : ∀ e, d[0]? = some e → levelOf e = true)
    (k : Nat) {e : Duration} (he : d[k]? = some e) : levelOf e = decide (k % 2 = 0) := by
  obtain ⟨-, hdiffer⟩ := (alternates_iff d).1 h
  induction k generalizing e with
  | zero => exact hfirst e he
  | succ k ih =>
    obtain ⟨hk, -⟩ := List.getElem?_eq_some_iff.1 he
    have hprev : d[k]? = some d[k] := List.getElem?_eq_getElem _
    have hne := hdiffer k _ _ hprev he
    rw [ih hprev] at hne
    rw [Bool.eq_not.2 hne.symm, ← decide_not, decide_eq_decide]
    omega

/-- The magnitude of an entry is at most 2^31 (rules R7, R80). -/
theorem usOf_le (e : Duration) : usOf e ≤ 2 ^ 31 := by
  have hlower := BitVec.le_toInt e
  have hupper := BitVec.toInt_lt (x := e)
  unfold usOf
  omega

theorem baseLength_le (q : PulseSeq) : baseLength q ≤ q.durations.length * 2 ^ 31 := by
  have hentries : ∀ us ∈ q.durations.map usOf, us ≤ 2 ^ 31 := by
    simp only [List.mem_map, forall_exists_index, and_imp, forall_apply_eq_imp_iff₂]
    exact fun e _ => usOf_le e
  simpa [baseLength] using List.sum_le_card_nsmul _ _ hentries

/-- The total length of a sequence that `SEQ` can hold fits 64 bits (rules R7, R135, R136). -/
theorem totalLength_lt {q : PulseSeq} (h : q.durations.length ≤ 65536) : totalLength q < 2 ^ 64 := by
  have hrepeats := q.repeatCount.isLt
  have hgap := q.repeatGap.isLt
  have hbase : baseLength q ≤ 2 ^ 47 := (baseLength_le q).trans (by omega)
  calc totalLength q
    _ ≤ 65535 * 2 ^ 47 + 65535 * 2 ^ 32 := Nat.add_le_add (Nat.mul_le_mul (by omega) hbase) (Nat.mul_le_mul (by omega) hgap.le)
    _ < 2 ^ 64 := by norm_num

theorem totalLength_eq (q : PulseSeq) : totalLength q =
    q.repeatCount.toNat * spanUs q.durations + (q.repeatCount.toNat - 1) * q.repeatGap.toNat := rfl

end Sys2Proof.Machine

namespace Sys2Proof.Claims

open Sys2Proof.Machine

/-- Settles O25: a frame is a well-formed sequence that begins with the header mark. -/
theorem encoderOutputsAlternate : Obligations.EncoderOutputsAlternate := by
  unfold Obligations.EncoderOutputsAlternate
  intro v s address data nbits hinv hfree P ok
  have hP : P.Valid := desc_valid hinv.cfgValid v
  have hok : ok ↔ FieldsFit P address.toNat data.toNat nbits.toNat := and_assoc.symm
  rw [hok, exec_encInstr]
  refine ⟨fun h => ?_, encodeCommand_of_not_fieldsFit hfree⟩
  have henc := encodeFrame_of_fieldsFit h
  obtain ⟨hlength, hsigns⟩ := Bool.and_eq_true_iff.1 (encodeFrame_wf hP le_rfl henc)
  have hlength := of_decide_eq_true hlength
  refine ⟨_, henc, encodeCommand_of_encode hfree henc, hlength, hlength.trans hinv.cfgValid.seqMin, fun k e he => ?_⟩
  have hlegal := ((alternates_iff _).1 hsigns).1 e (List.mem_of_getElem? he)
  have hlevel := levelOf_of_alternates hsigns (fun e he => ?_) k he
  · exact ⟨((entryLegal_iff e).1 hlegal).1, decide_eq_decide.1 hlevel⟩
  · obtain rfl := Option.some.inj ((frameOf_header P _ _).1.symm.trans he)
    exact levelOf_mark hP.hdrMark

/-- Settles O26: the three conditions are `RAW`'s check. -/
theorem rawTakesExactlyWellFormedSequences : Obligations.RawTakesExactlyWellFormedSequences := by
  unfold Obligations.RawTakesExactlyWellFormedSequences
  intro s carrier d hfree ok
  have hok : ok ↔ wfDurations s.cfg.seqCapacity d = true := (wfDurations_iff _ d).symm
  refine ⟨fun h => execRaw_next.2 ⟨hfree, .inl ⟨hok.1 h, rfl⟩⟩, fun h => execRaw_next.2 ⟨hfree, .inr ⟨?_, rfl⟩⟩⟩
  exact Bool.eq_false_iff.2 (mt hok.2 h)

/-- Settles O28: no total that `SEQ` can have overflows 64 bits. -/
theorem lenReturnsTotalLength : Obligations.LenReturnsTotalLength := by
  unfold Obligations.LenReturnsTotalLength
  intro s hinv hfree
  refine ⟨_, execLen_next.2 ⟨hfree, rfl⟩, ?_⟩
  have hlength := ((wfDurations_iff ..).1 hinv.seqLegal.durations).1.trans hinv.cfgValid.seqMax
  rw [BitVec.toNat_ofNat, Nat.mod_eq_of_lt (totalLength_lt hlength), totalLength_eq]

/-- Settles O27. -/
theorem repeatReplacesRepeatFields : Obligations.RepeatReplacesRepeatFields := by
  unfold Obligations.RepeatReplacesRepeatFields
  intro s n gap hfree
  have hzero : n = 0 ↔ n.toNat = 0 := BitVec.toNat_inj.symm
  exact ⟨fun h => execRepeatSeq_next.2 ⟨hfree, .inl ⟨hzero.2 h, rfl⟩⟩,
    fun h => execRepeatSeq_next.2 ⟨hfree, .inr ⟨mt hzero.1 h, rfl⟩⟩⟩

end Sys2Proof.Claims

/-! SUPPORT. Receiving an on-time signal: its edges fill the capture buffer with its magnitudes, the time-out completes the
capture and a dispatch runs the decoders on it (rules R205 to R212, R215). -/

namespace Sys2Proof.Machine

open Sys2Proof.Claims

/-- A list of instructions whose first has a next state goes on from there (rule R250). -/
theorem execAll_cons {i : Instr} {s t : State} (h : exec i s = .next t) (is : List Instr) :
    execAll (i :: is) s = execAll is t := by
  rw [execAll, h]

/-- A list of instructions in two parts (rule R250). -/
theorem execAll_append {is : List Instr} {s t : State} (h : execAll is s = .next t) (js : List Instr) :
    execAll (is ++ js) s = execAll js t := by
  induction is generalizing s with
  | nil => cases h; rfl
  | cons i is ih =>
    cases hi : exec i s with
    | next u =>
      rw [execAll_cons hi] at h
      rw [List.cons_append, execAll_cons hi, ih h]
    | fault f => simp [execAll, hi] at h
    | refused r => simp [execAll, hi] at h

/-- The gap, as the time difference mod 2^32 (rules R42, R206). -/
theorem State.toNat_gapAt (s : State) (time : Word) :
    (s.gapAt time).toNat = (time.toNat + 2 ^ 32 - s.lastEdge.toNat) % 2 ^ 32 := by
  have := s.lastEdge.isLt
  rw [State.gapAt, BitVec.toNat_sub]
  congr 1
  omega

/-- `s` with a capture in progress: the durations stored and the time of the last edge (rules R40 to R42). -/
def State.inCapture (s : State) (buf : List (BitVec 32)) (last : Word) : State :=
  { s with rxState := .capturing, capBuf := buf, lastEdge := last }

/-- An edge at most `IDLE_US` after the last one, in a capture with room, is stored (rule R206). -/
theorem State.edgeCapturing_inCapture {s : State} {buf : List (BitVec 32)} {us : Nat} (hus : us ≤ s.cfg.idleUs)
    (hroom : buf.length < s.cfg.capCapacity) (last : Word) :
    (s.inCapture buf last).edgeCapturing (last + BitVec.ofNat 32 us) =
      s.inCapture (buf ++ [BitVec.ofNat 32 us]) (last + BitVec.ofNat 32 us) := by
  have hgap : (s.inCapture buf last).gapAt (last + BitVec.ofNat 32 us) = BitVec.ofNat 32 us := by
    simp [State.gapAt, State.inCapture]
  have hfits : (BitVec.ofNat 32 us).toNat ≤ s.cfg.idleUs := by
    rw [BitVec.toNat_ofNat]
    exact (Nat.mod_le us _).trans hus
  have hontime : (s.inCapture buf last).gapExceeds (last + BitVec.ofNat 32 us) = false := by
    rw [State.gapExceeds, hgap]
    exact decide_eq_false (Nat.not_lt.2 hfits)
  have hroom : (s.inCapture buf last).capLen < (s.inCapture buf last).cfg.capCapacity := hroom
  rw [State.edgeCapturing, hontime, hgap, State.capture, if_pos hroom]
  rfl

/-- The edges of an on-time signal, in a capture with room for its durations (rules R206, R215). -/
theorem execAll_edgesFrom {s : State} (henabled : s.edgeEnabled = true) (level : Level) {F : List Duration}
    (htime : ∀ e ∈ F, usOf e ≤ s.cfg.idleUs) {buf : List (BitVec 32)}
    (hroom : buf.length + F.length ≤ s.cfg.capCapacity) (last : Word) :
    execAll (edgesFrom level last F) (s.inCapture buf last) =
      .next (s.inCapture (buf ++ captureOf F) (last + BitVec.ofNat 32 (spanUs F))) := by
  induction F generalizing level buf last with
  | nil => simp [edgesFrom, execAll, captureOf, spanUs]
  | cons e F ih =>
    rw [List.length_cons] at hroom
    obtain ⟨he, htime⟩ := List.forall_mem_cons.1 htime
    have hstored := State.edgeCapturing_inCapture he (buf := buf) (by omega) last
    have hedge : exec (.evEdge level (last + BitVec.ofNat 32 (usOf e))) (s.inCapture buf last) = .next
        (s.inCapture (buf ++ [BitVec.ofNat 32 (usOf e)]) (last + BitVec.ofNat 32 (usOf e))) :=
      (execEvEdge_next (level := level)).2 ⟨henabled, .inr (.inl ⟨rfl, hstored.symm⟩)⟩
    have hspan : spanUs (e :: F) = usOf e + spanUs F := by simp [spanUs, usOf]
    rw [edgesFrom, ← usOf, execAll_cons hedge, ih (!level) htime (by simp; omega), hspan, BitVec.ofNat_add,
      ← BitVec.add_assoc, List.append_assoc]
    rfl

/-- The edges of an on-time signal, from `IDLE`, leave its magnitudes in the buffer (rules R205, R206, R215). -/
theorem execAll_frameEdges {s : State} (henabled : s.edgeEnabled = true) (hidle : s.rxState = .idle)
    (hempty : s.capBuf = []) {F : List Duration} (htime : ∀ e ∈ F, usOf e ≤ s.cfg.idleUs)
    (hroom : F.length ≤ s.cfg.capCapacity) (t0 : Word) :
    execAll (frameEdges t0 F) s = .next (s.inCapture (captureOf F) (t0 + BitVec.ofNat 32 (spanUs F))) := by
  have hstart : exec (.evEdge true t0) s = .next (s.inCapture [] t0) :=
    execEvEdge_next.2 ⟨henabled, .inl ⟨hidle, by rw [State.inCapture, ← hempty]; rfl⟩⟩
  rw [frameEdges, execAll_cons hstart, execAll_edgesFrom henabled false htime (by simpa using hroom), List.nil_append]

/-- The time-out of a capture, past the threshold (rule R208). -/
theorem exec_evIdle_inCapture {s : State} (henabled : s.edgeEnabled = true) {time last : Word}
    (hlate : (time.toNat + 2 ^ 32 - last.toNat) % 2 ^ 32 > s.cfg.idleUs) (buf : List (BitVec 32)) :
    exec (.evIdle time) (s.inCapture buf last) = .next (s.inCapture buf last).completeCapture := by
  have hexceeds : (s.inCapture buf last).gapExceeds time = true := by
    rw [State.gapExceeds, State.toNat_gapAt]
    exact decide_eq_true hlate
  have hdue : (s.inCapture buf last).idleEnabled time =
      (s.edgeEnabled && (s.inCapture buf last).gapExceeds time) := by
    rw [State.idleEnabled, State.edgeEnabled]
    simp [State.inCapture]
  exact execEvIdle_next.2 ⟨by rw [hdue, henabled, hexceeds]; rfl, rfl⟩

/-- A completed capture is dispatched (rules R210, R212). -/
theorem exec_rxDispatch_of_done {s : State} (hfree : s.engActive = false) (hdone : s.rxState = .done) :
    exec .rxDispatch s = .next
      (({ s with rxLog := s.rxLog ++ [dispatchRec s], capBuf := [], rxState := .idle } : State).finish
        (some (.dispatched true))) :=
  execRxDispatch_next.2 ⟨hfree, .inr ⟨hdone, rfl⟩⟩

/-- An `EXACT` decoder on a capture that decodes: a match exactly when it expects the fields decoded (rules R211, R239). -/
theorem runDecoder_exact {cfg : Config} {e : DecEntry} {x : List (BitVec 32)} {address data : Nat} (hmode : e.mode = .exact)
    (h : decodeWith cfg e x = some (address, data)) :
    runDecoder cfg e x =
      if e.expAddress.toNat = address ∧ e.expData.toNat = data then .matched else .noMatch := by
  have hfields : (address, data) = (e.expAddress.toNat, e.expData.toNat) ↔
      e.expAddress.toNat = address ∧ e.expData.toNat = data := by rw [Prod.mk.injEq, eq_comm, @eq_comm _ data]
  simp [runDecoder, matchesEntry, hmode, h, hfields]

/-- A `DUMP` decoder on a capture that decodes (rule R211). -/
theorem runDecoder_dump {cfg : Config} {e : DecEntry} {x : List (BitVec 32)} {address data : Nat} (hmode : e.mode = .dump)
    (h : decodeWith cfg e x = some (address, data)) :
    runDecoder cfg e x = .decoded e.vendor address data e.nbits := by
  simp [runDecoder, hmode, h]

end Sys2Proof.Machine

namespace Sys2Proof.Claims

open Sys2Proof.Machine

/-- Settles O56: the edges of the frame leave its magnitudes in the buffer, the time-out hands them over, and each decoder of the
frame's descriptor decodes them to the fields encoded. -/
theorem encodedCommandIsReported : Obligations.EncodedCommandIsReported := by
  unfold Obligations.EncodedCommandIsReported
  intro s v nbits address data F t0 t1 hinv hready hidle hfree hne henc htime hlate
  have hP := desc_valid hinv.cfgValid v
  have henabled : s.edgeEnabled = true := by simp [State.edgeEnabled, hready, hinv.irqOn]
  have hroom : F.length ≤ s.cfg.capCapacity :=
    ((wfDurations_iff ..).1 (encodeFrame_wf hP le_rfl henc)).1.trans hinv.cfgValid.capMin
  have hedges := execAll_frameEdges henabled hidle (hinv.idleEmpty hidle) htime hroom t0
  have hidleStep := exec_evIdle_inCapture henabled hlate (captureOf F)
  have hdispatch := exec_rxDispatch_of_done
    (s := (s.inCapture (captureOf F) (t0 + BitVec.ofNat 32 (spanUs F))).completeCapture) hfree rfl
  have hrun := ((execAll_append hedges [.evIdle t1, .rxDispatch]).trans (execAll_cons hidleStep _)).trans
    (execAll_cons hdispatch [])
  refine ⟨_, s.dec.map fun e => runDecoder s.cfg e (captureOf F), hrun, rfl, rfl, rfl, rfl, fun j e he hv hn => ?_⟩
  have hdecode : decodeWith s.cfg e (captureOf F) = some (address, data) := by
    rw [decodeWith, hv, hn]
    exact decodeFrame_captureOf_encode hP hne _ henc
  rw [List.getElem?_map, he, Option.map_some]
  refine ⟨fun hmode hfields => ?_, fun hmode hfields => ?_, fun hmode => ?_⟩
  · rw [runDecoder_exact hmode hdecode, if_pos hfields]
  · rw [runDecoder_exact hmode hdecode, if_neg hfields]
  · rw [runDecoder_dump hmode hdecode, hv]

end Sys2Proof.Claims

/-! SUPPORT. What a send answers in each case, and what the two commands that send leave to it (rules R153 to R157, R182). -/

namespace Sys2Proof.Machine

open Sys2Proof.Claims

/-- With the host free, a command that sends is one send (rules R155, R182). -/
theorem exec_of_sends {i : Instr} {s : State} {q : PulseSeq} (hfree : s.engActive = false) (hi : Sends i s q) :
    exec i s = send q s := by
  obtain ⟨t, hsend⟩ := send_total q s
  rw [hsend]
  obtain ⟨rfl, rfl⟩ | ⟨handle, slot, rfl, hslot, rfl⟩ := hi
  · exact execTxSend_next.2 ⟨hfree, hsend⟩
  · exact execSwOn_next.2 ⟨hfree, .inr ⟨slot, hslot, hsend⟩⟩

/-- The sequence sent is well-formed, from `SEQ` or a slot (rule R23). -/
theorem State.Inv.legal_of_sends {i : Instr} {s : State} {q : PulseSeq} (hs : s.Inv) (hi : Sends i s q) :
    q.Legal s.cfg.seqCapacity := by
  obtain ⟨-, rfl⟩ | ⟨handle, slot, -, hslot, rfl⟩ := hi
  · exact hs.seqLegal
  · exact hs.slotsLegal slot (List.mem_of_getElem? hslot)

/-- The first check (rules R153, R266). -/
theorem send_of_not_ready {s : State} (hready : s.txReady = false) (q : PulseSeq) : send q s = failed s 3 := by
  simp [send, hready, raise, failed, Err.code]

/-- An empty sequence completes, busy or not (rule R156). -/
theorem send_of_empty {s : State} {q : PulseSeq} (hready : s.txReady = true) (hd : q.durations = []) :
    send q s = .next (s.finish none) := by
  simp [send, hready, hd, returnOk]

/-- Only the peripheral can be busy (rule R157). -/
theorem send_of_busy {s : State} {q : PulseSeq} (hready : s.txReady = true) (hd : q.durations ≠ [])
    (hbackend : s.cfg.backend = .peripheral) (hbusy : s.txBusy = true) : send q s = failed s 2 := by
  simp [send, hready, hd, hbackend, hbusy, raise, failed, Err.code]

/-- A send past its checks reconfigures if it must, then plays (rules R153, R158). -/
theorem send_plays {s : State} {q : PulseSeq} (hready : s.txReady = true) (hd : q.durations ≠ [])
    (hidle : s.cfg.backend = .peripheral → s.txBusy = false) :
    send q s = .next (((s.reconfigureIfNeeded q.carrier).play q).finish none) := by
  have hnotBusy : (decide (s.cfg.backend = .peripheral) && s.txBusy) = false := by simpa using hidle
  simp [send, hready, hd, hnotBusy, returnOk]

/-- A bit-bang send is never busy (rule R157). -/
theorem send_bitbang_status {s t : State} {q : PulseSeq} (hbackend : s.cfg.backend = .bitbang)
    (h : send q s = .next t) : t.status ≠ 2 := by
  obtain ⟨-, rfl⟩ | ⟨-, -, rfl⟩ | ⟨-, -, hb, -⟩ | ⟨-, -, -, rfl⟩ | ⟨-, -, hb, -⟩ := send_next h
  · simp
  · simp [statusOk]
  · cases hbackend.symm.trans hb
  · simp [statusOk]
  · cases hbackend.symm.trans hb

/-- The statements' name for the state in which a send plays (rule R158). -/
theorem afterCarrier_eq (s : State) (f : BitVec 32) : afterCarrier s f = s.reconfigureIfNeeded f := by
  obtain ⟨h, heq⟩ | ⟨h, heq⟩ := s.reconfigureIfNeeded_cases f <;> rw [heq, afterCarrier]
  · exact if_pos h
  · exact if_neg h

@[simp] theorem State.reconfigureIfNeeded_playback (s : State) (f : BitVec 32) :
    (s.reconfigureIfNeeded f).ticksPer10us = s.ticksPer10us ∧ (s.reconfigureIfNeeded f).engActive = s.engActive ∧
      (s.reconfigureIfNeeded f).txOut = s.txOut := by
  obtain ⟨-, h⟩ | ⟨-, h⟩ := s.reconfigureIfNeeded_cases f <;> simp [h]

/-- The carrier asked for is configured, with one reconfiguration at most (rule R158). -/
theorem State.reconfigureIfNeeded_carrier (s : State) (f : BitVec 32) :
    (s.reconfigureIfNeeded f).curCarrier = some f ∧
      (s.reconfigureIfNeeded f).reconfCount = (if s.curCarrier = some f then s.reconfCount else s.reconfCount + 1) := by
  obtain ⟨hf, h⟩ | ⟨hf, h⟩ := s.reconfigureIfNeeded_cases f <;> simp [h, hf]

theorem State.play_bitbang {s : State} (h : s.cfg.backend = .bitbang) (q : PulseSeq) : s.play q = s.bitbangSend q := by
  rw [State.play, h]

theorem State.play_peripheral {s : State} (h : s.cfg.backend = .peripheral) (q : PulseSeq) :
    s.play q = s.peripheralSend q := by
  rw [State.play, h]

/-- Playing leaves the carrier registers (rule R158). -/
theorem State.play_carrier (s : State) (q : PulseSeq) :
    (s.play q).curCarrier = s.curCarrier ∧ (s.play q).reconfCount = s.reconfCount ∧
      (s.play q).onUs = s.onUs ∧ (s.play q).offUs = s.offUs := by
  cases hbackend : s.cfg.backend with
  | bitbang => simp [s.play_bitbang hbackend, State.bitbangSend_eq]
  | peripheral =>
    rw [s.play_peripheral hbackend]
    obtain ⟨h, -⟩ | ⟨h, -⟩ := s.peripheralSend_eq q <;> simp [h]

/-- A submission writes the item list, the cursor and the busy flag (rule R165). -/
theorem State.submit_eq (s : State) (d : List Duration) :
    s.submit d = { s with
      itemq := toItems s.ticksPer10us.toNat s.cfg.itemTickMax d, txPos := 0
      txBusy := decide ((toItems s.ticksPer10us.toNat s.cfg.itemTickMax d).length > 0) } := by
  rw [State.submit]
  cases toItems s.ticksPer10us.toNat s.cfg.itemTickMax d <;> rfl

/-! SUPPORT. The steps of the playback: a resumption and an item (rules R170, R172). -/

/-- The count of passes fits while one is left (rules R30, R172). -/
theorem State.toNat_engRep_succ {s : State} (h : s.engRep.toNat < s.engSeq.repeatCount.toNat) :
    (s.engRep + 1).toNat = s.engRep.toNat + 1 := by
  have := s.engSeq.repeatCount.isLt
  rw [BitVec.toNat_add]
  exact Nat.mod_eq_of_lt (show s.engRep.toNat + 1 < 2 ^ 16 by omega)

/-- The engine goes on exactly while passes are left (rule R172). -/
theorem State.countPass_eq {s : State} (hactive : s.engActive = true) :
    s.countPass = { s with
      engRep := s.engRep + 1, engActive := decide (s.engRep.toNat + 1 ≠ s.engSeq.repeatCount.toNat) } := by
  by_cases h : s.engRep.toNat + 1 = s.engSeq.repeatCount.toNat <;> simp [State.countPass, h, hactive]

/-- Between two passes: the gap emitted and the next pass counted (rule R172). -/
def State.afterGap (s : State) : State := (s.emit (gapSpan s.engSeq)).countPass

theorem State.afterGap_eq {s : State} (hactive : s.engActive = true) :
    s.afterGap = { s with
      txTrace := s.txTrace ++ [gapSpan s.engSeq], txOut := false, engRep := s.engRep + 1
      engActive := decide (s.engRep.toNat + 1 ≠ s.engSeq.repeatCount.toNat) } :=
  State.countPass_eq (s := s.emit (gapSpan s.engSeq)) hactive

/-- A resumption: the submission and the count touch different fields (rule R172). -/
theorem exec_evResume {s : State} (hactive : s.engActive = true) (hbusy : s.txBusy = false) :
    exec .evResume s = .next (s.afterGap.submit s.engSeq.durations) :=
  execEvResume_next.2 ⟨by simp [State.resumeEnabled, hactive, hbusy], rfl⟩

theorem State.advance_of_more {s : State} (h : s.txPos + 1 < s.itemq.length) :
    s.advance = { s with txPos := s.txPos + 1 } := if_pos h

theorem State.advance_of_last {s : State} (h : ¬s.txPos + 1 < s.itemq.length) :
    s.advance = { s with txBusy := false, itemq := [], txPos := 0, txOut := false } := if_neg h

/-- The span an item is played as (rule R170). -/
def State.itemSpan (s : State) (x : Item) : Span :=
  { level := x.level, len := x.ticks, per10us := s.ticksPer10us.toNat }

/-- `s` with an item played and the cursor on the next (rule R170). -/
def State.playedItem (s : State) (x : Item) : State :=
  { s with txTrace := s.txTrace ++ [s.itemSpan x], txOut := x.level, txPos := s.txPos + 1 }

/-- An item with one behind it moves the cursor (rule R170). -/
theorem exec_evPlay_of_more {s : State} {x : Item} (hbusy : s.txBusy = true) (hitem : s.itemq[s.txPos]? = some x)
    (hmore : s.txPos + 1 < s.itemq.length) :
    exec .evPlay s = .next (s.playedItem x) :=
  execEvPlay_next.2 ⟨hbusy, x, hitem, (State.advance_of_more (s := s.emit (s.itemSpan x)) hmore).symm⟩

/-- The last item ends playback (rule R170). -/
theorem exec_evPlay_of_last {s : State} {x : Item} (hbusy : s.txBusy = true) (hitem : s.itemq[s.txPos]? = some x)
    (hlast : ¬s.txPos + 1 < s.itemq.length) :
    exec .evPlay s = .next { s with
      txTrace := s.txTrace ++ [s.itemSpan x], txBusy := false, itemq := [], txPos := 0, txOut := false } :=
  execEvPlay_next.2 ⟨hbusy, x, hitem, (State.advance_of_last (s := s.emit (s.itemSpan x)) hlast).symm⟩

end Sys2Proof.Machine

namespace Sys2Proof.Claims

open Sys2Proof.Machine

/-- Settles O37: the cases of `send`, in the order of its checks. -/
theorem sendChecksInOrder : Obligations.SendChecksInOrder := by
  unfold Obligations.SendChecksInOrder
  intro i s q hfree hi
  rw [exec_of_sends hfree hi]
  exact ⟨fun hready => send_of_not_ready hready q, fun hready hd => send_of_empty hready hd,
    fun hready hd hbackend hbusy => send_of_busy hready hd hbackend hbusy,
    fun hbackend t h => send_bitbang_status hbackend h⟩

/-- Settles O38: the spans of a bit-bang send are its passes with the gap between them. -/
theorem bitbangSendEmitsEveryPass : Obligations.BitbangSendEmitsEveryPass := by
  unfold Obligations.BitbangSendEmitsEveryPass
  intro i s q hfree hi hready hd hbackend
  have hplay := (s.reconfigureIfNeeded q.carrier).play_bitbang (by simpa using hbackend) q
  have htrace : (s.reconfigureIfNeeded q.carrier).txTrace = s.txTrace := by simp
  rw [exec_of_sends hfree hi, send_plays hready hd (by simp [hbackend]), hplay, State.bitbangSend_eq,
    bitbangSpans_eq_repeated, htrace, afterCarrier_eq]
  rfl

/-- Settles O39: reconfiguring writes the half periods, the invariant of the state it leaves says that they fit, and playing
leaves all four registers. -/
theorem reconfigureOnlyOnChange : Obligations.ReconfigureOnlyOnChange := by
  unfold Obligations.ReconfigureOnlyOnChange
  intro i s q hfree hi hinv hready hd hbusy
  obtain ⟨hcarrier, hcount, hon, hoff⟩ := (s.reconfigureIfNeeded q.carrier).play_carrier q
  rw [exec_of_sends hfree hi, send_plays hready hd fun _ => hbusy]
  refine ⟨_, rfl, rfl, ?_⟩
  simp only [State.finish_curCarrier, State.finish_reconfCount, State.finish_onUs, State.finish_offUs, hcarrier, hcount, hon,
    hoff]
  refine ⟨(s.reconfigureIfNeeded_carrier _).1, ?_⟩
  obtain ⟨hf, heq⟩ | ⟨hf, heq⟩ := s.reconfigureIfNeeded_cases q.carrier <;> rw [heq]
  · exact ⟨fun _ => ⟨rfl, rfl, rfl⟩, fun hne => absurd hf hne⟩
  · obtain ⟨honUs, hoffUs⟩ := (hinv.reconfigure q.carrier).halfPeriods q.carrier rfl
    refine ⟨fun hsame => absurd hsame hf, fun _ => ⟨BitVec.toNat_add .., fun hzero => ?_, fun hpos => ?_⟩⟩
    · rw [carrierOn, if_pos hzero] at honUs
      rw [carrierOff, if_pos hzero] at hoffUs
      exact ⟨BitVec.eq_of_toNat_eq honUs, BitVec.eq_of_toNat_eq hoffUs⟩
    · rw [honUs, hoffUs, carrierOff, carrierOn, if_neg hpos, if_neg hpos]
      exact ⟨rfl, rfl⟩

/-- Settles O40: the first pass is submitted, and any repeat count but 1 starts the engine. -/
theorem peripheralSendSubmits : Obligations.PeripheralSendSubmits := by
  unfold Obligations.PeripheralSendSubmits
  intro i s q hfree hi hready hd hbackend hbusy items
  have hplay := (s.reconfigureIfNeeded q.carrier).play_peripheral (by simpa using hbackend) q
  have hitems : toItems (s.reconfigureIfNeeded q.carrier).ticksPer10us.toNat
      (s.reconfigureIfNeeded q.carrier).cfg.itemTickMax q.durations = items := by simp [items]
  have hsubmit := (s.reconfigureIfNeeded q.carrier).submit_eq q.durations
  rw [hitems] at hsubmit
  rw [exec_of_sends hfree hi, send_plays hready hd fun _ => hbusy, hplay, afterCarrier_eq]
  obtain ⟨heq, hrepeat⟩ | ⟨heq, hrepeat⟩ := (s.reconfigureIfNeeded q.carrier).peripheralSend_eq q <;> rw [heq, hsubmit]
  · exact ⟨fun _ => rfl, fun hne => absurd hrepeat hne⟩
  · exact ⟨fun hone => absurd hone hrepeat, fun _ => rfl⟩

/-- Settles O42: an item with one behind it, and the last one. -/
theorem playEmitsOneItem : Obligations.PlayEmitsOneItem := by
  unfold Obligations.PlayEmitsOneItem
  refine ⟨fun s hidle => ?_, ?_⟩
  · simp [exec, execEvPlay, State.playEnabled, hidle]
  · intro s x hbusy hitem trace
    exact ⟨exec_evPlay_of_more hbusy hitem, exec_evPlay_of_last hbusy hitem⟩

/-- Settles O43: the gap leaves the pin inactive, the submission and the count touch different fields, and the count fits
because the engine is before its last pass. -/
theorem resumeSubmitsTheNextPass : Obligations.ResumeSubmitsTheNextPass := by
  unfold Obligations.ResumeSubmitsTheNextPass
  refine ⟨fun s hnot => ?_, ?_⟩
  · have hdisabled : s.resumeEnabled = false := by simpa [State.resumeEnabled] using hnot
    simp [exec, execEvResume, hdisabled]
  · intro s hinv hactive hbusy items
    obtain ⟨-, -, -, hlt⟩ := hinv.engineRange hactive
    have hrep := State.toNat_engRep_succ hlt
    refine ⟨s.engRep + 1, hrep, ?_⟩
    rw [exec_evResume hactive hbusy, State.afterGap_eq hactive, State.submit_eq, hrep]
    rfl

/-- Settles O35: the checks are those of `execTxConfig_next`. -/
theorem txConfigChecksThenWrites : Obligations.TxConfigChecksThenWrites := by
  unfold Obligations.TxConfigChecksThenWrites
  intro s duty pin hfree
  exact ⟨fun hduty => execTxConfig_next.2 ⟨hfree, .inl ⟨by omega, rfl⟩⟩,
    fun hmin hmax hbusy => execTxConfig_next.2 ⟨hfree, .inr (.inl ⟨by omega, hbusy, rfl⟩)⟩,
    fun hmin hmax hbusy => execTxConfig_next.2 ⟨hfree, .inr (.inr ⟨by omega, hbusy, rfl⟩)⟩⟩

/-- Settles O36: the tick rate fits its register under the invariant. -/
theorem txSetupOnce : Obligations.TxSetupOnce := by
  unfold Obligations.TxSetupOnce
  intro s hinv hfree rate
  have hfits : (BitVec.ofNat 32 (tickRate s)).toNat = rate := Nat.mod_eq_of_lt hinv.tickRate_lt
  exact ⟨fun hready => execTxSetup_next.2 ⟨hfree, .inl ⟨hready, rfl⟩⟩,
    fun hready hbackend => execTxSetup_next.2 ⟨hfree, .inr (.inl ⟨hready, hbackend, rfl⟩)⟩,
    fun hready hbackend hzero => execTxSetup_next.2 ⟨hfree, .inr (.inr (.inl ⟨hready, hbackend, hzero, rfl⟩))⟩,
    fun hready hbackend hpos => ⟨_, hfits,
      execTxSetup_next.2 ⟨hfree, .inr (.inr (.inr ⟨hready, hbackend, hpos, rfl⟩))⟩⟩⟩

/-- Settles O48: under the invariant the slots do not exceed `NSLOT`, whose numbers fit 16 bits. -/
theorem switchCreateStoresACopy : Obligations.SwitchCreateStoresACopy := by
  unfold Obligations.SwitchCreateStoresACopy
  intro s name hinv hfree
  have hroom := hinv.slotsFit
  have hmax := hinv.cfgValid.slots
  rw [State.nslotUsed]
  refine ⟨fun hfull => execSwCreate_next.2 ⟨hfree, .inl ⟨hfull.ge, rfl⟩⟩,
    fun hnotFull => ⟨BitVec.ofNat 16 s.slots.length, ?_, ?_⟩⟩
  · exact Nat.mod_eq_of_lt (show s.slots.length < 2 ^ 16 by omega)
  · exact execSwCreate_next.2 ⟨hfree, .inr ⟨by omega, rfl⟩⟩

/-- Settles O49: the two answers of `execSwOff_next`. -/
theorem switchOffDoesNothing : Obligations.SwitchOffDoesNothing := by
  unfold Obligations.SwitchOffDoesNothing
  intro s handle hfree
  exact ⟨fun hused => execSwOff_next.2 ⟨hfree, .inr ⟨hused, rfl⟩⟩,
    fun hunknown => execSwOff_next.2 ⟨hfree, .inl ⟨hunknown, rfl⟩⟩⟩

end Sys2Proof.Claims

/-! SUPPORT. The items of an entry (rule R166), and the pin inside a bit-banged mark, microsecond by microsecond (rule R164). -/

namespace Sys2Proof.Machine

/-- All items of an entry but the last are full (rule R166). -/
theorem splitTicks_full_before_last (m : Nat) (level : Level) (fuel ticks : Nat) {k : Nat} {x : Item}
    (hk : k + 1 < (splitTicks m level fuel ticks).length) (hx : (splitTicks m level fuel ticks)[k]? = some x) :
    x.ticks = m := by
  induction fuel generalizing ticks k with
  | zero => by_cases h0 : ticks > 0 <;> simp [splitTicks, h0] at hk
  | succ fuel ih =>
    by_cases h : ticks > m
    · rw [splitTicks, if_pos h] at hk hx
      cases k with
      | zero =>
        obtain rfl : _ = x := Option.some.inj hx
        rfl
      | succ k => exact ih (ticks - m) (by simpa using hk) hx
    · by_cases h0 : ticks > 0 <;> simp [splitTicks, h, h0] at hk

/-- The pin's level in each microsecond of a list of spans. -/
def levelsByUs (spans : List Span) : List Level := spans.flatMap fun sp => List.replicate sp.len sp.level

@[simp] theorem levelsByUs_nil : levelsByUs [] = [] := rfl

@[simp] theorem levelsByUs_usSpan_cons (level : Level) (us : Nat) (spans : List Span) :
    levelsByUs (usSpan level us :: spans) = List.replicate us level ++ levelsByUs spans := rfl

/-- The pin in each of the first `d` microseconds of a carrier: active in the first `on` of each cycle (rule R164). -/
def carrierByUs (on off d : Nat) : List Level := (List.range d).map fun t => decide (t % (on + off) < on)

/-- The on-time of a cycle, cut at `d` (rule R164). -/
theorem carrierByUs_on {on d : Nat} (off : Nat) (h : d ≤ on) : carrierByUs on off d = List.replicate d true := by
  refine List.eq_replicate_iff.2 ⟨by simp [carrierByUs], fun b hb => ?_⟩
  obtain ⟨t, ht, rfl⟩ := List.mem_map.1 hb
  have ht := List.mem_range.1 ht
  exact decide_eq_true ((Nat.mod_le _ _).trans_lt (by omega))

/-- A cycle, cut in its off-time (rule R164). -/
theorem carrierByUs_on_add {on off m : Nat} (h : m ≤ off) :
    carrierByUs on off (on + m) = List.replicate on true ++ List.replicate m false := by
  have hoff : ((List.range m).map fun t => decide ((on + t) % (on + off) < on)) = List.replicate m false := by
    refine List.eq_replicate_iff.2 ⟨by simp, fun b hb => ?_⟩
    obtain ⟨t, ht, rfl⟩ := List.mem_map.1 hb
    have ht := List.mem_range.1 ht
    rw [Nat.mod_eq_of_lt (by omega)]
    exact decide_eq_false (by omega)
  rw [← hoff, ← carrierByUs_on off le_rfl, carrierByUs, List.range_add, List.map_append, List.map_map]
  rfl

/-- The carrier repeats with its period (rule R164). -/
theorem carrierByUs_cycle_add (on off d : Nat) :
    carrierByUs on off (on + off + d) = List.replicate on true ++ List.replicate off false ++ carrierByUs on off d := by
  rw [← carrierByUs_on_add le_rfl, carrierByUs, List.range_add, List.map_append, List.map_map]
  simp [carrierByUs, Function.comp_def]

@[simp] theorem waveLoop_zero (on off fuel : Nat) : waveLoop on off fuel 0 = [] := by cases fuel <;> rfl

/-- A mark that ends in the on-time (rule R164). -/
theorem waveLoop_on {on left : Nat} (off fuel : Nat) (hpos : 0 < left) (h : left ≤ on) :
    waveLoop on off (fuel + 1) left = [usSpan true left] := by
  simp [waveLoop, hpos.ne', Nat.min_eq_right h]

/-- A mark that goes past the on-time (rule R164). -/
theorem waveLoop_on_add (on off fuel : Nat) {m : Nat} (hpos : 0 < m) : waveLoop on off (fuel + 1) (on + m) =
    usSpan true on :: usSpan false (min off m) :: waveLoop on off fuel (m - min off m) := by
  simp [waveLoop, hpos.ne']

/-- The loop of rule R164, with fuel for every cycle: the mark ends in the on-time, in the off-time or after the
cycle. -/
theorem levelsByUs_waveLoop {on off : Nat} (fuel left : Nat) (hfuel : left < (on + off) * fuel) :
    levelsByUs (waveLoop on off fuel left) = carrierByUs on off left := by
  induction fuel generalizing left with
  | zero => simp at hfuel
  | succ fuel ih =>
    rcases Nat.eq_zero_or_pos left with rfl | hpos
    · rw [waveLoop_zero]; rfl
    rcases Nat.lt_or_ge on left with hlong | hshort
    · obtain ⟨m, rfl⟩ := Nat.exists_eq_add_of_le hlong.le
      rw [waveLoop_on_add on off fuel (by omega)]
      rcases Nat.le_total m off with hm | hm
      · simp [Nat.min_eq_right hm, carrierByUs_on_add hm]
      · obtain ⟨rest, rfl⟩ := Nat.exists_eq_add_of_le hm
        have hrest := ih rest (by rw [Nat.mul_add_one] at hfuel; omega)
        rw [← Nat.add_assoc, carrierByUs_cycle_add, ← hrest]
        simp
    · rw [waveLoop_on off fuel hpos hshort, carrierByUs_on off hshort]
      simp

end Sys2Proof.Machine

namespace Sys2Proof.Claims

open Sys2Proof.Machine

/-- Settles O41: the entries' items follow one another, and `splitTicks` makes those of one entry. -/
theorem itemsCarryTheTicks : Obligations.ItemsCarryTheTicks := by
  unfold Obligations.ItemsCarryTheTicks
  intro rate itemTickMax d hmax
  refine ⟨List.flatMap_def .., fun e _ => ⟨splitTicks_sum .., itemsOf_legal hmax rate e, fun k x hk hx => ?_⟩⟩
  exact splitTicks_full_before_last _ _ _ _ hk hx

/-- Settles O46: the loop cycle by cycle, and the mark without a carrier. -/
theorem carrierWaveByMicrosecond : Obligations.CarrierWaveByMicrosecond := by
  unfold Obligations.CarrierWaveByMicrosecond
  intro on off d
  rw [carrierWave]
  split
  · next hnone => simp [hnone, usSpan, List.map_const']
  · next hcarrier =>
    simp only [hcarrier, false_or]
    have hperiod : 0 < on + off := by omega
    exact levelsByUs_waveLoop _ d (Nat.lt_mul_div_succ d hperiod)

end Sys2Proof.Claims

/-! SUPPORT. A peripheral send with its playback steps: an item, a pass, a resumption, every pass (rules R160, R170, R172). -/

namespace Sys2Proof.Machine

open Sys2Proof.Claims

/-- `s` with spans played to the end: the pin and the peripheral are at rest (rules R162, R170). -/
def State.played (s : State) (spans : List Span) : State :=
  { s with txTrace := s.txTrace ++ spans, itemq := [], txPos := 0, txBusy := false, txOut := false }

/-- A busy peripheral plays the items from its cursor on, one a step (rule R170). -/
theorem execAll_evPlay {s : State} {n : Nat} (hbusy : s.txBusy = true) (hleft : s.itemq.length = s.txPos + (n + 1)) :
    execAll (List.replicate (n + 1) .evPlay) s = .next (s.played ((s.itemq.drop s.txPos).map s.itemSpan)) := by
  induction n generalizing s with
  | zero =>
    have hcursor : s.txPos < s.itemq.length := by omega
    rw [List.drop_eq_getElem_cons hcursor, List.drop_eq_nil_of_le (by omega)]
    exact execAll_cons (exec_evPlay_of_last hbusy (List.getElem?_eq_getElem hcursor) (by omega)) []
  | succ n ih =>
    have hcursor : s.txPos < s.itemq.length := by omega
    have hplay := exec_evPlay_of_more hbusy (List.getElem?_eq_getElem hcursor) (by omega)
    have hrest := ih (s := s.playedItem s.itemq[s.txPos]) hbusy (show s.itemq.length = s.txPos + 1 + (n + 1) by omega)
    rw [List.drop_eq_getElem_cons hcursor, List.replicate_succ, execAll_cons hplay, hrest]
    simp only [State.played, State.playedItem, List.map_cons, List.append_assoc, List.singleton_append]
    rfl

/-- A submission plays its pass, an empty one in no step (rules R165, R170). -/
theorem execAll_pass {s : State} (hpin : s.txOut = false) (q : PulseSeq) :
    execAll (List.replicate (toItems s.ticksPer10us.toNat s.cfg.itemTickMax q.durations).length .evPlay)
      (s.submit q.durations) = .next (s.played (itemPass s q)) := by
  rw [State.submit_eq, itemPass]
  cases toItems s.ticksPer10us.toNat s.cfg.itemTickMax q.durations with
  | nil => simp [execAll, State.played, hpin]
  | cons x xs => exact execAll_evPlay rfl (Nat.zero_add _).symm

/-- The steps of one pass after the first; `playSteps_succ` ties them to the statement's steps. -/
def resumedPass (nItems : Nat) : List Instr := .evResume :: List.replicate nItems .evPlay

/-- A resumption and its pass (rules R160, R172). -/
theorem execAll_resumedPass {s : State} (hactive : s.engActive = true) (hbusy : s.txBusy = false) :
    execAll (resumedPass (toItems s.ticksPer10us.toNat s.cfg.itemTickMax s.engSeq.durations).length) s =
      .next (s.afterGap.played (itemPass s s.engSeq)) := by
  rw [resumedPass, execAll_cons (exec_evResume hactive hbusy)]
  exact execAll_pass (s := s.afterGap) rfl s.engSeq

theorem playSteps_succ (nItems k : Nat) : playSteps nItems (k + 1) =
    List.replicate nItems .evPlay ++ (List.replicate k (resumedPass nItems)).flatten := rfl

/-- The engine runs to its last pass and lets the host go (rules R160, R172). -/
theorem execAll_resumedPasses {s : State} {k : Nat} (hactive : s.engActive = true) (hbusy : s.txBusy = false)
    (hleft : s.engRep.toNat + (k + 1) = s.engSeq.repeatCount.toNat) :
    execAll (List.replicate (k + 1)
        (resumedPass (toItems s.ticksPer10us.toNat s.cfg.itemTickMax s.engSeq.durations).length)).flatten s =
      .next (({ s with engRep := s.engSeq.repeatCount, engActive := false } : State).played
        (List.replicate (k + 1) (gapSpan s.engSeq :: itemPass s s.engSeq)).flatten) := by
  induction k generalizing s with
  | zero =>
    have hlast : s.engRep + 1 = s.engSeq.repeatCount :=
      BitVec.eq_of_toNat_eq ((State.toNat_engRep_succ (by omega)).trans hleft)
    have hpass := execAll_resumedPass hactive hbusy
    rw [State.afterGap_eq hactive, hlast] at hpass
    simp [hpass, hleft, State.played]
  | succ k ih =>
    have hrep : (s.engRep + 1).toNat = s.engRep.toNat + 1 := State.toNat_engRep_succ (by omega)
    have hpass := execAll_resumedPass hactive hbusy
    have hmore : s.afterGap.engActive = true := by simp [State.afterGap_eq hactive]; omega
    rw [List.replicate_succ, List.flatten_cons, execAll_append hpass]
    have hleft' : (s.engRep + 1).toNat + (k + 1) = s.engSeq.repeatCount.toNat := by omega
    refine (ih (s := s.afterGap.played (itemPass s s.engSeq)) hmore rfl hleft').trans ?_
    rw [State.afterGap_eq hactive]
    simp [State.played, List.replicate_succ, itemPass]

/-- Completing the command writes no field that a peripheral send reads or writes (rules R105, R167). -/
theorem State.finish_peripheralSend (s : State) (v : Option CmdResult) (q : PulseSeq) :
    (s.peripheralSend q).finish v = (s.finish v).peripheralSend q := by
  unfold State.peripheralSend
  split <;> rfl

/-- Passes with the gap between them (rule R160). -/
theorem repeated_succ {q : PulseSeq} {k : Nat} (hk : q.repeatCount.toNat = k + 1) (pass : List Span) :
    repeated q pass = pass ++ (List.replicate k (gapSpan q :: pass)).flatten := by
  rw [repeated, hk, intercalate_replicate_succ]
  rfl

/-- A peripheral send from rest plays every pass (rules R160, R167). The engine keeps its last sequence and count. -/
theorem execAll_playSteps {s : State} {q : PulseSeq} (hpin : s.txOut = false) (hfree : s.engActive = false)
    (hq : 1 ≤ q.repeatCount.toNat) : ∃ engSeq engRep,
    execAll (playSteps (toItems s.ticksPer10us.toNat s.cfg.itemTickMax q.durations).length q.repeatCount.toNat)
        (s.peripheralSend q) =
      .next (({ s with engSeq := engSeq, engRep := engRep } : State).played (repeated q (itemPass s q))) := by
  obtain ⟨k, hk⟩ := Nat.exists_eq_add_of_le' hq
  rw [repeated_succ hk, hk, playSteps_succ]
  obtain ⟨heq, hone⟩ | ⟨heq, hmany⟩ := s.peripheralSend_eq q <;> rw [heq]
  · obtain rfl : k = 0 := by simpa [hone] using hk.symm
    refine ⟨s.engSeq, s.engRep, ?_⟩
    rw [execAll_append (execAll_pass hpin q)]
    simp [execAll]
  · have hk0 : k ≠ 0 := fun h0 => hmany (BitVec.eq_of_toNat_eq (by rw [hk, h0]; rfl))
    obtain ⟨m, rfl⟩ := Nat.exists_eq_add_of_le' (Nat.pos_of_ne_zero hk0)
    have hfirst := execAll_pass (s := s.startEngine q) hpin q
    have hrest := execAll_resumedPasses (s := (s.startEngine q).played (itemPass s q)) (k := m) rfl rfl
      (show 1 + (m + 1) = q.repeatCount.toNat by omega)
    refine ⟨q, q.repeatCount, ?_⟩
    refine (execAll_append hfirst _).trans (hrest.trans ?_)
    simp [State.played, State.startEngine, hfree, itemPass]

end Sys2Proof.Machine

namespace Sys2Proof.Claims

open Sys2Proof.Machine

/-- Settles O44: from the state at rest that the checks and the reconfiguration leave, every pass is played, and playing leaves
the registers that the statement names. -/
theorem peripheralPlaysTheWholeSend : Obligations.PeripheralPlaysTheWholeSend := by
  unfold Obligations.PeripheralPlaysTheWholeSend
  intro i s q hinv hfree hbusy hi hready hd hbackend
  have hplay := (s.reconfigureIfNeeded q.carrier).play_peripheral (by simpa using hbackend) q
  have hsend : exec i s = .next (((s.reconfigureIfNeeded q.carrier).finish none).peripheralSend q) := by
    rw [exec_of_sends hfree hi, send_plays hready hd fun _ => hbusy, hplay, State.finish_peripheralSend]
  have hpin : ((s.reconfigureIfNeeded q.carrier).finish none).txOut = false := by simp [(hinv.notBusy hbusy).2.2]
  have hengine : ((s.reconfigureIfNeeded q.carrier).finish none).engActive = false := by simp [hfree]
  obtain ⟨engSeq, engRep, hpasses⟩ := execAll_playSteps hpin hengine (hinv.legal_of_sends hi).repeats
  have hpass : itemPass ((s.reconfigureIfNeeded q.carrier).finish none) q = itemPass s q := by simp [itemPass]
  rw [hpass] at hpasses
  obtain ⟨hcarrier, hcount⟩ := s.reconfigureIfNeeded_carrier q.carrier
  refine ⟨_, (execAll_cons hsend _).trans (by simpa using hpasses), ?_⟩
  simp [State.played, State.quiescent, statusOk, hfree, hcarrier, hcount]

end Sys2Proof.Claims

/-! SUPPORT. A send reads the sequence it is given and never `SEQ` (rules R70, R155, R182). -/

namespace Sys2Proof.Machine

open Sys2Proof.Claims

/-- `s` with another sequence in `SEQ` (rule R22). -/
def State.withSeq (s : State) (q : PulseSeq) : State := { s with seq := q }

theorem State.reconfigureIfNeeded_withSeq (s : State) (f : BitVec 32) (q : PulseSeq) :
    (s.withSeq q).reconfigureIfNeeded f = (s.reconfigureIfNeeded f).withSeq q := by
  unfold State.reconfigureIfNeeded
  rw [apply_ite (State.withSeq · q)]
  rfl

theorem State.play_withSeq (s : State) (q q' : PulseSeq) : (s.withSeq q').play q = (s.play q).withSeq q' := by
  cases hbackend : s.cfg.backend with
  | bitbang =>
    rw [State.play_bitbang hbackend, State.play_bitbang (s := s.withSeq q') hbackend, State.bitbangSend_eq,
      State.bitbangSend_eq]
    rfl
  | peripheral =>
    rw [State.play_peripheral hbackend, State.play_peripheral (s := s.withSeq q') hbackend, State.peripheralSend,
      State.peripheralSend, apply_ite (State.withSeq · q')]
    rfl

/-- A send passes `SEQ` through: each of its cases is decided by other fields and leaves `SEQ` (rules R153, R182). -/
theorem send_withSeq (s : State) (q q' : PulseSeq) :
    send q (s.withSeq q') = mapNext (State.withSeq · q') (send q s) := by
  cases hready : s.txReady with
  | false => rw [send_of_not_ready hready, send_of_not_ready (s := s.withSeq q') hready]; rfl
  | true =>
    by_cases hd : q.durations = []
    · rw [send_of_empty hready hd, send_of_empty (s := s.withSeq q') hready hd]; rfl
    by_cases hidle : s.cfg.backend = .peripheral → s.txBusy = false
    · rw [send_plays hready hd hidle, send_plays (s := s.withSeq q') hready hd hidle, State.reconfigureIfNeeded_withSeq,
        State.play_withSeq]
      rfl
    · obtain ⟨hbackend, hnotIdle⟩ := Classical.not_imp.1 hidle
      have hbusy : s.txBusy = true := by simpa using hnotIdle
      rw [send_of_busy hready hd hbackend hbusy, send_of_busy (s := s.withSeq q') hready hd hbackend hbusy]
      rfl

/-! SUPPORT. The two sides of the state: which instruction leaves which as it was (rules R163, R200). -/

/-- The receiver's state (rules R40 to R46). -/
def State.receiver (s : State) :=
  (s.rxPin, s.rxReady, s.rxState, s.capBuf, s.lastEdge, s.gen, s.dec, s.rxLog)

/-- The state of the builder, the transmitter, the peripheral and the engine (rules R22 to R36). -/
def State.transmitter (s : State) :=
  (s.seq, s.slots, s.txPin, s.carrierDuty, s.txReady, s.curCarrier, s.reconfCount, s.onUs, s.offUs, s.ticksPer10us,
    s.channel, s.itemq, s.txPos, s.txBusy, s.engActive, s.engSeq, s.engRep, s.irqEn, s.txOut, s.txTrace)

@[simp] theorem State.reconfigureIfNeeded_receiver (s : State) (f : BitVec 32) :
    (s.reconfigureIfNeeded f).receiver = s.receiver := by
  obtain ⟨-, h⟩ | ⟨-, h⟩ := s.reconfigureIfNeeded_cases f <;> rw [h]
  rfl

@[simp] theorem State.bitbangSend_receiver (s : State) (q : PulseSeq) : (s.bitbangSend q).receiver = s.receiver := by
  rw [State.bitbangSend_eq]
  rfl

@[simp] theorem State.peripheralSend_receiver (s : State) (q : PulseSeq) : (s.peripheralSend q).receiver = s.receiver := by
  obtain ⟨h, -⟩ | ⟨h, -⟩ := s.peripheralSend_eq q <;> rw [h] <;> rfl

@[simp] theorem State.finish_receiver (s : State) (v : Option CmdResult) : (s.finish v).receiver = s.receiver := rfl

@[simp] theorem State.failed_receiver (s : State) (code : BitVec 8) :
    State.receiver { s with status := code, result := none } = s.receiver := rfl

@[simp] theorem State.advance_receiver (s : State) : s.advance.receiver = s.receiver := by
  obtain ⟨-, h⟩ | ⟨-, h⟩ := s.advance_cases <;> rw [h] <;> rfl

theorem encodeCommand_receiver {v : Vendor} {n : BitVec 16} {a d : Word} {s t : State}
    (h : encodeCommand v n a d s = .next t) : t.receiver = s.receiver := by
  obtain ⟨-, ⟨-, rfl⟩ | ⟨F, -, rfl⟩⟩ := encodeCommand_next h <;> rfl

theorem send_receiver {q : PulseSeq} {s t : State} (h : send q s = .next t) : t.receiver = s.receiver := by
  obtain ⟨-, rfl⟩ | ⟨-, -, rfl⟩ | ⟨-, -, -, -, rfl⟩ | ⟨-, -, -, rfl⟩ | ⟨-, -, -, -, rfl⟩ := send_next h <;> simp

/-- Rule R163, instruction by instruction. -/
theorem exec_keeps_receiver {i : Instr} {s t : State}
    (hi : i.opc ∉ [.rxSetup, .rxReg, .rxDispatch, .evEdge, .evIdle]) (h : exec i s = .next t) :
    t.receiver = s.receiver := by
  cases i with
  | encNec => exact encodeCommand_receiver h
  | encLg => exact encodeCommand_receiver h
  | encPanasonic => exact encodeCommand_receiver h
  | raw => obtain ⟨-, ⟨-, rfl⟩ | ⟨-, rfl⟩⟩ := execRaw_next.1 h <;> rfl
  | repeatSeq => obtain ⟨-, ⟨-, rfl⟩ | ⟨-, rfl⟩⟩ := execRepeatSeq_next.1 h <;> rfl
  | len => obtain ⟨-, rfl⟩ := execLen_next.1 h; rfl
  | txConfig => obtain ⟨-, ⟨-, rfl⟩ | ⟨-, -, rfl⟩ | ⟨-, -, rfl⟩⟩ := execTxConfig_next.1 h <;> rfl
  | txSetup =>
    obtain ⟨-, ⟨-, rfl⟩ | ⟨-, -, rfl⟩ | ⟨-, -, -, rfl⟩ | ⟨-, -, -, rfl⟩⟩ := execTxSetup_next.1 h <;> rfl
  | txSend => exact send_receiver (execTxSend_next.1 h).2
  | swCreate => obtain ⟨-, ⟨-, rfl⟩ | ⟨-, rfl⟩⟩ := execSwCreate_next.1 h <;> rfl
  | swOn =>
    obtain ⟨-, ⟨-, rfl⟩ | ⟨slot, -, hsend⟩⟩ := execSwOn_next.1 h
    · rfl
    · exact send_receiver hsend
  | swOff => obtain ⟨-, ⟨-, rfl⟩ | ⟨-, rfl⟩⟩ := execSwOff_next.1 h <;> rfl
  | evPlay =>
    obtain ⟨-, item, -, rfl⟩ := execEvPlay_next.1 h
    exact State.advance_receiver _
  | evResume => obtain ⟨-, rfl⟩ := execEvResume_next.1 h; rfl
  | _ => simp [Instr.opc] at hi

theorem registerDecoder_transmitter {e : DecEntry} {s t : State} (h : registerDecoder e s = .next t) :
    t.transmitter = s.transmitter := by
  obtain rfl | ⟨-, -, -, -, rfl⟩ := registerDecoder_next h <;> rfl

theorem State.edgeIdle_transmitter (s : State) (level : Level) (time : Word) :
    (s.edgeIdle level time).transmitter = s.transmitter := by
  cases level <;> rfl

theorem State.edgeCapturing_transmitter (s : State) (time : Word) :
    (s.edgeCapturing time).transmitter = s.transmitter := by
  unfold State.edgeCapturing
  split
  · rfl
  · obtain ⟨-, h⟩ | ⟨-, h⟩ := s.capture_cases (s.gapAt time) <;> rw [h] <;> rfl

/-- Rule R200, instruction by instruction. -/
theorem exec_keeps_transmitter {i : Instr} {s t : State}
    (hi : i.opc ∈ [.rxSetup, .rxReg, .rxDispatch, .evEdge, .evIdle]) (h : exec i s = .next t) :
    t.transmitter = s.transmitter := by
  cases i with
  | rxSetup => obtain ⟨-, ⟨-, rfl⟩ | ⟨-, rfl⟩⟩ := execRxSetup_next.1 h <;> rfl
  | rxReg =>
    obtain ⟨-, ⟨-, rfl⟩ | ⟨v, -, hreg⟩⟩ := execRxReg_next.1 h
    · rfl
    · exact registerDecoder_transmitter hreg
  | rxDispatch => obtain ⟨-, ⟨-, rfl⟩ | ⟨-, rfl⟩⟩ := execRxDispatch_next.1 h <;> rfl
  | evEdge =>
    obtain ⟨-, ⟨-, rfl⟩ | ⟨-, rfl⟩ | ⟨-, rfl⟩⟩ := execEvEdge_next.1 h
    · exact s.edgeIdle_transmitter _ _
    · exact s.edgeCapturing_transmitter _
    · rfl
  | evIdle => obtain ⟨-, rfl⟩ := execEvIdle_next.1 h; rfl
  | _ => simp [Instr.opc] at hi

end Sys2Proof.Machine

namespace Sys2Proof.Claims

open Sys2Proof.Machine

/-- Settles O47: a held host is refused either way, and a free one runs the same send with `SEQ` passed through. -/
theorem switchOnSendsTheStoredCopy : Obligations.SwitchOnSendsTheStoredCopy := by
  unfold Obligations.SwitchOnSendsTheStoredCopy
  intro s handle
  refine ⟨fun slot hslot => ?_, fun hfree hout => execSwOn_next.2 ⟨hfree, .inl ⟨List.getElem?_eq_none hout, rfl⟩⟩⟩
  rcases Bool.eq_false_or_eq_true s.engActive with hheld | hfree
  · simp [exec, execSwOn, execTxSend, hostStep_blocked, hheld, mapNext]
  · have hon : exec (.swOn handle) s = send slot.seq s := exec_of_sends hfree (.inr ⟨handle, slot, rfl, hslot, rfl⟩)
    have hsend : exec .txSend { s with seq := slot.seq } = send slot.seq (s.withSeq slot.seq) :=
      exec_of_sends hfree (.inl ⟨rfl, rfl⟩)
    rw [hon, hsend]
    exact send_withSeq (s.withSeq slot.seq) slot.seq s.seq

/-- Settles O20: each instruction writes fields of one side only. -/
theorem transmitAndReceiveAreSeparate : Obligations.TransmitAndReceiveAreSeparate := by
  unfold Obligations.TransmitAndReceiveAreSeparate
  intro i s t h
  refine ⟨fun hi => ?_, fun hi => ?_⟩
  · simpa [State.receiver] using exec_keeps_receiver (by simpa using hi) h
  · simpa [State.transmitter] using exec_keeps_transmitter (by simpa using hi) h

end Sys2Proof.Claims

/-! SUPPORT. Registering a decoder: the vendor codes, the checks on an entry and both answers, and a header with reserved
bits set (rules R102, R106, R202). -/

namespace Sys2Proof

/-- The operation's byte of a header word (rule R100). -/
theorem Header.toNat_op_ofWord (w : Word) : (Header.ofWord w).op.toNat = w.toNat / 2 ^ 24 := by
  simp only [Header.ofWord, BitVec.extractLsb'_toNat, Nat.shiftRight_eq_div_pow]
  omega

/-- Bits 6:4 of a header word's sub-operand `A` (rules R100, R103). -/
theorem Header.toNat_reserved_ofWord (w : Word) :
    ((Header.ofWord w).a.extractLsb' 4 3).toNat = w.toNat / 2 ^ 20 % 8 := by
  simp only [Header.ofWord, BitVec.extractLsb'_toNat, Nat.shiftRight_eq_div_pow]
  omega

/-- An `RX.REG` header whose `A[6:4]` is not 0 names no operation; its two operand words are consumed (rules R101, R106). -/
theorem decode_rxReg_reserved {w : Word} (hop : w.toNat / 2 ^ 24 = 0x21) (hreserved : w.toNat / 2 ^ 20 % 8 ≠ 0)
    (w1 w2 : Word) (ws : List Word) : decode (w :: w1 :: w2 :: ws) = .illegal .nonzeroField ws := by
  have hop : (Header.ofWord w).op = 0x21 := BitVec.eq_of_toNat_eq ((Header.toNat_op_ofWord w).trans hop)
  have hreserved : (Header.ofWord w).a.extractLsb' 4 3 ≠ 0#3 := fun hzero =>
    hreserved ((Header.toNat_reserved_ofWord w).symm.trans (congrArg BitVec.toNat hzero))
  have hopc : (Header.ofWord w).opc = .error .nonzeroField := by simp [Header.opc, Opc.ifZero, hop, hreserved]
  have hcount : (Header.ofWord w).operandCount = 2 := by simp [Header.operandCount, hop]
  rw [decode_of_illegal hopc, hcount, operandsIllegal, if_neg (by simp)]
  rfl

namespace Machine

/-- The code of `RX.REG` names a vendor exactly when it is that vendor's (rule R102). -/
theorem vendorOf_eq_some {code : BitVec 4} {v : Vendor} : vendorOf code = some v ↔ code = vendorCode v := by
  revert code
  cases v <;> decide

/-- The checks on an entry, as bounds on its fields (rules R45, R202). -/
theorem DecEntry.legal_iff {e : DecEntry} {c : Config} : e.Legal c ↔
    (c.desc e.vendor).nbitsMin ≤ e.nbits.toNat ∧ e.nbits.toNat ≤ (c.desc e.vendor).nbitsMax ∧
      (e.mode = .exact → e.expAddress.toNat < 2 ^ (c.desc e.vendor).addrBits ∧
        e.expData.toNat < 2 ^ dataBits (c.desc e.vendor) e.nbits.toNat) := by
  have hbits : nbitsLegal (c.desc e.vendor) e.nbits.toNat = true ↔
      (c.desc e.vendor).nbitsMin ≤ e.nbits.toNat ∧ e.nbits.toNat ≤ (c.desc e.vendor).nbitsMax := by simp [nbitsLegal]
  have hexpected : expectedFits (c.desc e.vendor) e.mode e.nbits.toNat e.expAddress e.expData = true ↔
      (e.mode = .exact → e.expAddress.toNat < 2 ^ (c.desc e.vendor).addrBits ∧
        e.expData.toNat < 2 ^ dataBits (c.desc e.vendor) e.nbits.toNat) := by
    cases hmode : e.mode <;> simp [expectedFits, addressFits, dataFits]
  rw [← hexpected, ← and_assoc, ← hbits]
  exact ⟨fun h => ⟨h.nbits, h.expected⟩, fun ⟨hn, he⟩ => ⟨hn, he⟩⟩

/-- A legal entry is appended while there is room (rule R202). -/
theorem registerDecoder_of_legal {e : DecEntry} {s : State} (hlegal : e.Legal s.cfg) (hroom : s.dec.length < s.cfg.ndec) :
    registerDecoder e s =
      returnOk (some (.index (BitVec.ofNat 16 s.dec.length))) { s with dec := s.dec ++ [e] } := by
  simp [registerDecoder, hlegal.nbits, hlegal.expected, hroom.not_ge, State.ndecUsed, memAppend]

/-- Every other entry is `InvalidArgument`: some check of `registerDecoder` fails (rules R202, R262). -/
theorem registerDecoder_of_not_legal {e : DecEntry} {s : State} (h : ¬(e.Legal s.cfg ∧ s.dec.length < s.cfg.ndec)) :
    registerDecoder e s = raise .invalidArgument s := by
  unfold registerDecoder
  split
  · rfl
  split
  · rfl
  split
  · rfl
  next hbits hexpected hroom =>
    exact absurd ⟨⟨by simpa using hbits, by simpa using hexpected⟩, not_le.1 hroom⟩ h

end Machine

end Sys2Proof

namespace Sys2Proof.Claims

open Sys2Proof.Machine

/-- Settles O51: a header with reserved bits set decodes as illegal; past the vendor code, the checks are those of
`DecEntry.Legal`, and the index fits 16 bits under the invariant. -/
theorem registerChecksThenAppends : Obligations.RegisterChecksThenAppends := by
  unfold Obligations.RegisterChecksThenAppends
  refine ⟨fun s w w1 w2 ws hfree hstream hop hreserved => ?_, ?_⟩
  · exact step_next.2 (.inr ⟨.nonzeroField, ws, by rw [fetch, hstream, decode_rxReg_reserved hop hreserved],
      illegalCommand_next.2 ⟨hfree, rfl⟩⟩)
  intro s mode code nbits expAddress expData hinv hfree ok
  have hfits := hinv.decFits
  have hndec := hinv.cfgValid.decs
  have hok (v : Vendor) : ok v ↔ code = vendorCode v ∧
      DecEntry.Legal ⟨v, nbits, mode, expAddress, expData⟩ s.cfg ∧ s.dec.length < s.cfg.ndec := by
    rw [DecEntry.legal_iff, hfits.lt_iff_ne]
    simp only [ok, dataBits, State.ndecUsed, and_assoc]
  refine ⟨fun v hv => ?_, fun hnone => ?_⟩
  · obtain ⟨hcode, hlegal, hroom⟩ := (hok v).1 hv
    refine ⟨BitVec.ofNat 16 s.dec.length, Nat.mod_eq_of_lt (show s.dec.length < 2 ^ 16 by omega), ?_⟩
    exact execRxReg_next.2 ⟨hfree, .inr ⟨v, vendorOf_eq_some.2 hcode, registerDecoder_of_legal hlegal hroom⟩⟩
  · cases hvendor : vendorOf code with
    | none => exact execRxReg_next.2 ⟨hfree, .inl ⟨hvendor, rfl⟩⟩
    | some v =>
      have hrejected := mt (hok v).2 (hnone v)
      exact execRxReg_next.2 ⟨hfree, .inr ⟨v, hvendor,
        registerDecoder_of_not_legal fun h => hrejected ⟨vendorOf_eq_some.1 hvendor, h⟩⟩⟩

end Sys2Proof.Claims

/-! SUPPORT. The gap test as a bound, what an edge does to a capture and what each decoder mode answers (rules R205 to
R211). -/

namespace Sys2Proof.Machine

/-- The threshold is met by the time difference mod 2^32 (rules R42, R206). -/
theorem State.gapExceeds_iff (s : State) (time : Word) :
    s.gapExceeds time = true ↔ s.cfg.idleUs < (time.toNat + 2 ^ 32 - s.lastEdge.toNat) % 2 ^ 32 := by
  rw [State.gapExceeds, decide_eq_true_iff, State.toNat_gapAt]

/-- What the idle time-out waits for (rules R208, R270). -/
theorem State.idleEnabled_iff (s : State) (time : Word) :
    s.idleEnabled time = true ↔ s.rxReady = true ∧ s.irqEn = true ∧ s.rxState = .capturing ∧
      s.cfg.idleUs < (time.toNat + 2 ^ 32 - s.lastEdge.toNat) % 2 ^ 32 := by
  simp only [State.idleEnabled, Bool.and_eq_true, decide_eq_true_iff, State.gapExceeds_iff, and_assoc]

/-- `GEN` counts mod 2^32 (rule R43). -/
theorem State.toNat_gen_succ (s : State) : (s.gen + 1).toNat = (s.gen.toNat + 1) % 2 ^ 32 := BitVec.toNat_add _ _

/-- A late edge ends the capture (rule R206). -/
theorem State.edgeCapturing_of_late {s : State} {time : Word} (h : s.gapExceeds time = true) :
    s.edgeCapturing time = s.completeCapture := if_pos h

/-- An on-time edge is captured, and its time kept (rule R206). -/
theorem State.edgeCapturing_of_onTime {s : State} {time : Word} (h : ¬s.gapExceeds time = true) :
    s.edgeCapturing time = { (s.capture (s.gapAt time)) with lastEdge := time } := if_neg h

/-- An `EXACT` decoder on any capture (rules R211, R239). -/
theorem runDecoder_exact_eq (cfg : Config) {e : DecEntry} (hmode : e.mode = .exact) (x : List (BitVec 32)) :
    runDecoder cfg e x =
      if decodeWith cfg e x = some (e.expAddress.toNat, e.expData.toNat) then .matched else .noMatch := by
  simp [runDecoder, matchesEntry, hmode]

/-- A `DUMP` decoder hands on a capture that does not decode (rule R211). -/
theorem runDecoder_dump_none {cfg : Config} {e : DecEntry} {x : List (BitVec 32)} (hmode : e.mode = .dump)
    (h : decodeWith cfg e x = none) : runDecoder cfg e x = .raw x := by
  simp [runDecoder, hmode, h]

end Sys2Proof.Machine

namespace Sys2Proof.Claims

open Sys2Proof.Machine

/-- Settles O52: one case of `execEvEdge_next` per receiver state, split in a capture by the gap and by the room left. -/
theorem edgeByReceiverState : Obligations.EdgeByReceiverState := by
  unfold Obligations.EdgeByReceiverState
  refine ⟨fun s level time hoff => ?_, ?_⟩
  · have hdisabled : ¬s.edgeEnabled = true := by rcases hoff with h | h <;> simp [State.edgeEnabled, h]
    exact if_neg hdisabled
  intro s level time hready hirq gap
  have henabled : s.edgeEnabled = true := by simp [State.edgeEnabled, hready, hirq]
  have hidle (h : s.rxState = .idle) : exec (.evEdge level time) s = .next (s.edgeIdle level time) :=
    execEvEdge_next.2 ⟨henabled, .inl ⟨h, rfl⟩⟩
  have hcapturing (h : s.rxState = .capturing) : exec (.evEdge level time) s = .next (s.edgeCapturing time) :=
    execEvEdge_next.2 ⟨henabled, .inr (.inl ⟨h, rfl⟩)⟩
  have hontime (h : gap ≤ s.cfg.idleUs) : ¬s.gapExceeds time = true := mt (s.gapExceeds_iff time).1 h.not_gt
  have hgap : BitVec.ofNat 32 gap = s.gapAt time :=
    BitVec.eq_of_toNat_eq (by rw [s.toNat_gapAt, BitVec.toNat_ofNat, Nat.mod_mod])
  refine ⟨?_, ?_, ?_, ?_, ?_, ?_⟩
  · rintro h rfl
    exact hidle h
  · rintro h rfl
    exact hidle h
  · intro h hlate
    refine ⟨s.gen + 1, s.toNat_gen_succ, ?_⟩
    rw [hcapturing h, State.edgeCapturing_of_late ((s.gapExceeds_iff time).2 hlate), State.completeCapture]
  · intro h hle hroom
    rw [hcapturing h, State.edgeCapturing_of_onTime (hontime hle), State.capture, if_pos hroom, hgap, memAppend]
  · intro h hle hfull
    rw [hcapturing h, State.edgeCapturing_of_onTime (hontime hle), State.capture, if_neg hfull.not_gt]
  · intro h
    exact execEvEdge_next.2 ⟨henabled, .inr (.inr ⟨h, rfl⟩)⟩

/-- Settles O53, by what the time-out waits for. -/
theorem idleTimeoutCompletesTheCapture : Obligations.IdleTimeoutCompletesTheCapture := by
  unfold Obligations.IdleTimeoutCompletesTheCapture
  intro s time due
  refine ⟨fun hdue => ⟨s.gen + 1, s.toNat_gen_succ, ?_⟩, fun hnot => ?_⟩
  · exact execEvIdle_next.2 ⟨(s.idleEnabled_iff time).2 hdue, rfl⟩
  · exact if_neg (mt (s.idleEnabled_iff time).1 hnot)

/-- Settles O54: the outcomes are those of `runDecoder` along `DEC`. -/
theorem dispatchRunsEveryDecoder : Obligations.DispatchRunsEveryDecoder := by
  unfold Obligations.DispatchRunsEveryDecoder
  intro s hfree
  refine ⟨fun hnot => execRxDispatch_next.2 ⟨hfree, .inl ⟨hnot, rfl⟩⟩, fun hdone => ?_⟩
  refine ⟨s.dec.map fun e => runDecoder s.cfg e s.capBuf, exec_rxDispatch_of_done hfree hdone, List.length_map _, ?_⟩
  intro j e he r
  have hr : decodeWith s.cfg e s.capBuf = r := rfl
  rw [List.getElem?_map, he, Option.map_some]
  refine ⟨fun hmode hfields => ?_, fun hmode hfields => ?_, fun hmode a d hfields => ?_, fun hmode hnone => ?_⟩
  · rw [runDecoder_exact_eq _ hmode, hr, if_pos hfields]
  · rw [runDecoder_exact_eq _ hmode, hr, if_neg hfields]
  · rw [runDecoder_dump hmode hfields]
  · rw [runDecoder_dump_none hmode hnone]

/-- Settles O55: the edges fill the buffer (`execAll_frameEdges`), and the time-out then stands at the end of the list. -/
theorem onTimeFrameIsCaptured : Obligations.OnTimeFrameIsCaptured := by
  unfold Obligations.OnTimeFrameIsCaptured
  intro s F t0 t1 hready hirq hidle hempty hroom htime last captured
  have henabled : s.edgeEnabled = true := by simp [State.edgeEnabled, hready, hirq]
  have hedges : execAll (frameEdges t0 F) s = .next (s.inCapture (captureOf F) last) :=
    execAll_frameEdges henabled hidle hempty htime hroom t0
  refine ⟨hedges, fun hlate => ?_⟩
  exact (execAll_append hedges _).trans (execAll_cons (exec_evIdle_inCapture henabled hlate (captureOf F)) [])

/-- Settles O50: the two answers of `execRxSetup_next`. -/
theorem rxSetupOnce : Obligations.RxSetupOnce := by
  unfold Obligations.RxSetupOnce
  intro s pin hfree
  exact ⟨fun hready => execRxSetup_next.2 ⟨hfree, .inl ⟨hready, rfl⟩⟩,
    fun hready => execRxSetup_next.2 ⟨hfree, .inr ⟨hready, rfl⟩⟩⟩

end Sys2Proof.Claims

/-! SUPPORT. The tolerance window by its two edges, and what `classify` answers (rules R231 to R233). -/

namespace Sys2Proof.Machine

/-- The least duration of a window: the ceiling of its lower bound (rule R231). -/
def lowerEdge (tol ref : Nat) : Nat := ((100 - tol) * ref + 99) / 100

/-- The greatest duration of a window: the floor of its upper bound (rule R231). -/
def upperEdge (tol ref : Nat) : Nat := (100 + tol) * ref / 100

theorem within_iff_edges (tol d ref : Nat) :
    within tol d ref = true ↔ lowerEdge tol ref ≤ d ∧ d ≤ upperEdge tol ref := by
  rw [within_iff, lowerEdge, upperEdge]
  omega

/-- A window is never empty: its reference lies between its edges (rule R232). -/
theorem lowerEdge_le_upperEdge (tol ref : Nat) : lowerEdge tol ref ≤ upperEdge tol ref := by
  obtain ⟨hlower, hupper⟩ := (within_iff_edges tol ref ref).1 (within_self tol ref)
  exact hlower.trans hupper

theorem lowerEdge_pos {tol ref : Nat} (htol : tol ≤ 99) (href : 1 ≤ ref) : 1 ≤ lowerEdge tol ref := by
  have hpos : 0 < (100 - tol) * ref := Nat.mul_pos (by omega) href
  rw [lowerEdge]
  omega

/-- Two windows share no duration where the upper bound of the one is below the lower bound of the other (rule R233). -/
theorem windows_disjoint {tol a b : Nat} (h : (100 + tol) * a < (100 - tol) * b) (v : Nat) :
    ¬(within tol v a = true ∧ within tol v b = true) := by
  rintro ⟨ha, hb⟩
  have hupper := ((within_iff ..).1 ha).2
  have hlower := ((within_iff ..).1 hb).1
  omega

/-- `classify` by the two window tests; the distances decide where both hold (rule R233). -/
theorem classify_eq (tol v : Nat) (P : Descriptor) :
    classify tol v P =
      if within tol v P.bitOneUs = true ∧
          (within tol v P.bitZeroUs = true → distance v P.bitOneUs ≤ distance v P.bitZeroUs) then some true
      else if within tol v P.bitZeroUs = true then some false
      else none := by
  unfold classify
  cases within tol v P.bitZeroUs <;> cases within tol v P.bitOneUs <;> simp

theorem classify_none_iff (tol v : Nat) (P : Descriptor) :
    classify tol v P = none ↔ ¬within tol v P.bitZeroUs = true ∧ ¬within tol v P.bitOneUs = true := by
  rw [classify_eq]
  split
  · next hone => simp [hone.1]
  · split
    · next hzero => simp [hzero]
    · next hnot hzero => exact iff_of_true rfl ⟨hzero, fun ho => hnot ⟨ho, fun hz => absurd hz hzero⟩⟩

theorem classify_true_iff (tol v : Nat) (P : Descriptor) :
    classify tol v P = some true ↔ within tol v P.bitOneUs = true ∧
      (within tol v P.bitZeroUs = true → distance v P.bitOneUs ≤ distance v P.bitZeroUs) := by
  rw [classify_eq]
  split
  · next hone => exact iff_of_true rfl hone
  · next hnot => exact iff_of_false (by split <;> simp) hnot

theorem classify_false_iff (tol v : Nat) (P : Descriptor) :
    classify tol v P = some false ↔ within tol v P.bitZeroUs = true ∧
      (within tol v P.bitOneUs = true → ¬distance v P.bitOneUs ≤ distance v P.bitZeroUs) := by
  rw [classify_eq]
  split
  · next hone =>
    obtain ⟨ho, hnear⟩ := hone
    exact iff_of_false (by simp) fun ⟨hzero, hfar⟩ => hfar ho (hnear hzero)
  · next hnot =>
    split
    · next hzero => exact iff_of_true rfl ⟨hzero, fun ho hnear => hnot ⟨ho, fun _ => hnear⟩⟩
    · next hzero => exact iff_of_false (by simp) fun h => hzero h.1

end Sys2Proof.Machine

namespace Sys2Proof.Claims

open Sys2Proof.Machine

/-- Settles O31: the window is the interval between its edges (`within_iff_edges`), which holds at least one duration. -/
theorem toleranceEdgesAreInside : Obligations.ToleranceEdgesAreInside := by
  unfold Obligations.ToleranceEdgesAreInside
  intro tol ref htol href upper lower
  have hwindow (d : Nat) : within tol d ref = true ↔ lower ≤ d ∧ d ≤ upper := within_iff_edges tol d ref
  have hedges : lower ≤ upper := lowerEdge_le_upperEdge tol ref
  have hpos : 1 ≤ lower := lowerEdge_pos htol href
  refine ⟨hwindow, (hwindow upper).2 ⟨hedges, le_rfl⟩, ?_, (hwindow lower).2 ⟨le_rfl, hedges⟩, ?_, hpos⟩
  · rw [← Bool.not_eq_true, hwindow]
    omega
  · rw [← Bool.not_eq_true, hwindow]
    omega

/-- Settles O32: the three answers of `classify`, and the bounds of the descriptors' windows at 25 percent. -/
theorem classifyNearestWithinTolerance : Obligations.ClassifyNearestWithinTolerance := by
  unfold Obligations.ClassifyNearestWithinTolerance
  refine ⟨fun tol v P => ⟨classify_none_iff tol v P, classify_true_iff tol v P, classify_false_iff tol v P⟩, ?_⟩
  intro P hmem
  simp only [List.mem_cons, List.not_mem_nil, or_false] at hmem
  obtain rfl | rfl | rfl := hmem <;> exact windows_disjoint (by decide)

end Sys2Proof.Claims

/-! SUPPORT. What `decode` answers, said once, and which entries of a capture it reads (rules R234 to R238). -/

namespace Sys2Proof.Machine

theorem decodeFrame_some {tol : Nat} {P : Descriptor} {nbits : Nat} {x : List (BitVec 32)} {address data : Nat} :
    decodeFrame tol P nbits x = some (address, data) ↔
      need P nbits ≤ x.length ∧ entryWithin tol x 0 P.hdrMarkUs = true ∧ entryWithin tol x 1 P.hdrSpaceUs = true ∧
        ∃ word, readBits tol P nbits x nbits = some word ∧
          address = wordAddress P nbits word ∧ data = wordData P nbits word := by
  unfold decodeFrame
  by_cases hlength : x.length < need P nbits
  · simp [hlength]
  · cases entryWithin tol x 0 P.hdrMarkUs
    · simp
    · cases entryWithin tol x 1 P.hdrSpaceUs
      · simp
      · cases readBits tol P nbits x nbits <;> simp [hlength, not_lt.1 hlength, eq_comm]

theorem decodeFrame_none_of_hdrMark {tol : Nat} {P : Descriptor} {x : List (BitVec 32)}
    (h : entryWithin tol x 0 P.hdrMarkUs = false) (nbits : Nat) : decodeFrame tol P nbits x = none := by
  simp [decodeFrame, h]

theorem entryWithin_congr {x y : List (BitVec 32)} {i : Nat} (h : x[i]? = y[i]?) (tol ref : Nat) :
    entryWithin tol x i ref = entryWithin tol y i ref := by
  rw [Bool.eq_iff_iff, entryWithin_iff, entryWithin_iff, h]

/-- `readBits` reads the discriminating durations only (rules R236, R237). -/
theorem readBits_congr {x y : List (BitVec 32)} (tol : Nat) (P : Descriptor) (nbits : Nat) {m : Nat}
    (h : ∀ k < m, x[bitIndex P k]? = y[bitIndex P k]?) : readBits tol P nbits x m = readBits tol P nbits y m := by
  induction m with
  | zero => rfl
  | succ m ih =>
    have hentry : memRead x (bitIndex P m) = memRead y (bitIndex P m) := h m (Nat.lt_succ_self m)
    rw [readBits, readBits, ih fun k hk => h k (Nat.lt_succ_of_lt hk), hentry]

end Sys2Proof.Machine

namespace Sys2Proof.Claims

open Sys2Proof.Machine

/-- Settles O59: `decodeFrame_some`, with the header tests and the bits read written out. -/
theorem decodeAnswersExactly : Obligations.DecodeAnswersExactly := by
  unfold Obligations.DecodeAnswersExactly
  intro tol P nbits x address data
  have hneed : 2 + 2 * nbits + (if P.hasStop then 1 else 0) = need P nbits := by cases h : P.hasStop <;> simp [need, h]
  rw [decodeFrame_some, hneed, entryWithin_iff, entryWithin_iff]
  refine and_congr_right' (and_congr_right' (and_congr_right' ?_))
  constructor
  · rintro ⟨word, hword, haddress, hdata⟩
    obtain ⟨bit, hbits, rfl⟩ := (readBits_some ..).1 hword
    exact ⟨bit, hbits, haddress, hdata⟩
  · rintro ⟨bit, hbits, haddress, hdata⟩
    exact ⟨_, (readBits_some ..).2 ⟨bit, hbits, rfl⟩, haddress, hdata⟩

/-- Settles O33: the length test passes for both captures, and every entry `decodeFrame` reads is the same in both. -/
theorem decodeReadsOnlyHeaderAndBits : Obligations.DecodeReadsOnlyHeaderAndBits := by
  unfold Obligations.DecodeReadsOnlyHeaderAndBits
  intro tol P nbits x y hx hy hmark hspace hbits
  refine Option.ext fun ⟨address, data⟩ => ?_
  change need P nbits ≤ x.length at hx
  change need P nbits ≤ y.length at hy
  rw [decodeFrame_some, decodeFrame_some, entryWithin_congr hmark, entryWithin_congr hspace,
    readBits_congr tol P nbits hbits, iff_true_intro hx, iff_true_intro hy]

end Sys2Proof.Claims

/-! SUPPORT. Decoding a clean frame of one protocol under the descriptor of another (rule R241). -/

namespace Sys2Proof.Machine

/-- `Q` reads the clean frames of `P`: frames of one shape, and every duration `Q` reads of one is inside its window. -/
structure ReadsFramesOf (tol : Nat) (Q P : Descriptor) : Prop where
  inMark : Q.bitInMark = P.bitInMark
  msb : Q.msbFirst = P.msbFirst
  stop : Q.hasStop = P.hasStop
  hdrMark : within tol P.hdrMarkUs Q.hdrMarkUs = true
  hdrSpace : within tol P.hdrSpaceUs Q.hdrSpaceUs = true
  bits : ∀ b, classify tol (bitUs P b) Q = some b

theorem entryWithin_of_getElem? {x : List (BitVec 32)} {i : Nat} {u : BitVec 32} (h : x[i]? = some u) (tol ref : Nat) :
    entryWithin tol x i ref = within tol u.toNat ref := by
  simp [entryWithin, memRead, h]

/-- The header of a captured frame is tested as the descriptor's durations are (rules R85, R235). -/
theorem entryWithin_captureOf_frameOf {P : Descriptor} (hP : P.Valid) (tol word nbits ref : Nat) :
    entryWithin tol (captureOf (frameOf P word nbits)) 0 ref = within tol P.hdrMarkUs ref ∧
      entryWithin tol (captureOf (frameOf P word nbits)) 1 ref = within tol P.hdrSpaceUs ref := by
  obtain ⟨hmark, hspace⟩ := frameOf_header P word nbits
  have hmark := captureOf_getElem? hmark
  have hspace := captureOf_getElem? hspace
  rw [usOf_mark hP.hdrMark.2] at hmark
  rw [usOf_space hP.hdrSpace.2] at hspace
  rw [entryWithin_of_getElem? hmark, entryWithin_of_getElem? hspace, toNat_ofNat_of_usLegal hP.hdrMark,
    toNat_ofNat_of_usLegal hP.hdrSpace]
  exact ⟨rfl, rfl⟩

theorem captureOf_frameOf_length (P : Descriptor) (word nbits : Nat) :
    (captureOf (frameOf P word nbits)).length = need P nbits := by
  rw [captureOf, List.length_map, frameOf_length]

/-- A descriptor that reads the frames of another decodes the word sent, split into its own fields (rule R241). -/
theorem ReadsFramesOf.decodeFrame_eq {tol : Nat} {Q P : Descriptor} (h : ReadsFramesOf tol Q P) (hP : P.Valid)
    {word nbits : Nat} (hword : word < 2 ^ nbits) :
    decodeFrame tol Q nbits (captureOf (frameOf P word nbits)) =
      some (wordAddress Q nbits word, wordData Q nbits word) := by
  have hlength : need Q nbits = need P nbits := by rw [need, need, h.stop]
  obtain ⟨hmark, -⟩ := entryWithin_captureOf_frameOf hP tol word nbits Q.hdrMarkUs
  obtain ⟨-, hspace⟩ := entryWithin_captureOf_frameOf hP tol word nbits Q.hdrSpaceUs
  have hsum : ((List.range nbits).map fun k => if sentBit P word nbits k then bitWeight Q nbits k else 0).sum = word := by
    simpa only [bitWeight, h.msb] using sum_sentBit_weights P hword
  have hread : readBits tol Q nbits (captureOf (frameOf P word nbits)) nbits = some word := by
    refine (readBits_some ..).2 ⟨sentBit P word nbits, fun k hk => ?_, hsum.symm⟩
    have hindex : bitIndex Q k = bitIndex P k := by rw [bitIndex, bitIndex, h.inMark]
    refine ⟨_, by rw [hindex, captureOf_frameOf_bit hP word hk], ?_⟩
    rw [toNat_ofNat_of_usLegal (bitUs_legal hP _)]
    exact h.bits _
  exact decodeFrame_some.2 ⟨by rw [captureOf_frameOf_length, hlength], hmark.trans h.hdrMark, hspace.trans h.hdrSpace,
    word, hread, rfl, rfl⟩

/-- A header mark outside the window: no frame of `P` decodes under `Q` (rule R235). -/
theorem decodeFrame_none_of_foreign_hdrMark {tol : Nat} {Q P : Descriptor} (hP : P.Valid)
    (h : within tol P.hdrMarkUs Q.hdrMarkUs = false) (word sent nbits : Nat) :
    decodeFrame tol Q nbits (captureOf (frameOf P word sent)) = none :=
  decodeFrame_none_of_hdrMark ((entryWithin_captureOf_frameOf hP tol word sent _).1.trans h) nbits

theorem descLG_reads_descNEC : ReadsFramesOf 25 descLG descNEC := ⟨rfl, rfl, rfl, by decide, by decide, by decide⟩

theorem descNEC_reads_descLG : ReadsFramesOf 25 descNEC descLG := ⟨rfl, rfl, rfl, by decide, by decide, by decide⟩

end Sys2Proof.Machine

namespace Sys2Proof.Claims

open Sys2Proof.Machine

/-- Settles O34: NEC and LG read each other's frames (`ReadsFramesOf.decodeFrame_eq`); Panasonic's header mark is outside
their windows, and theirs are outside Panasonic's. -/
theorem necAndLgDecodeEachOther : Obligations.NecAndLgDecodeEachOther := by
  unfold Obligations.NecAndLgDecodeEachOther
  have hnec := spaceEncoded_descNEC.valid
  have hlg := spaceEncoded_descLG.valid
  have hpanasonic := spaceEncoded_descPanasonic.valid
  refine ⟨fun address command F henc => ?_, fun data F henc => ?_, fun address data F henc => ?_⟩
  · obtain ⟨-, haddress, hcommand, rfl⟩ := encodeFrame_some.1 henc
    have hword : frameWord descNEC 32 address command < 2 ^ 32 := frameWord_lt (by decide) haddress hcommand
    refine ⟨?_, decodeFrame_none_of_foreign_hdrMark hnec (by decide) _ _ _⟩
    rw [descLG_reads_descNEC.decodeFrame_eq hnec hword]
    exact congrArg some (Prod.ext (Nat.div_eq_of_lt hword) (Nat.mod_eq_of_lt hword))
  · obtain ⟨-, haddress, hdata, rfl⟩ := encodeFrame_some.1 henc
    have hword : frameWord descLG 32 0 data = data := by simp [frameWord]
    rw [hword]
    exact ⟨descNEC_reads_descLG.decodeFrame_eq hlg hdata, decodeFrame_none_of_foreign_hdrMark hlg (by decide) _ _ _⟩
  · obtain ⟨-, -, -, rfl⟩ := encodeFrame_some.1 henc
    exact ⟨decodeFrame_none_of_foreign_hdrMark hpanasonic (by decide) _ _ _,
      decodeFrame_none_of_foreign_hdrMark hpanasonic (by decide) _ _⟩

end Sys2Proof.Claims

/-! SUPPORT. No instruction reads the command port or writes it: other words in it pass through (rules R56, R70, R250). -/

namespace Sys2Proof.Machine

open Sys2Proof.Claims

/-- Whether the host is held is not read from the port (rule R271). -/
theorem hostStep_consume (s : State) (ws : List Word) {o o' : Answer} (h : o' = mapNext (State.consume · ws) o) :
    hostStep (s.consume ws) o' = mapNext (State.consume · ws) (hostStep s o) := by
  rw [hostStep, hostStep, apply_ite (mapNext _), h]
  rfl

theorem State.reconfigureIfNeeded_consume (s : State) (ws : List Word) (f : BitVec 32) :
    (s.consume ws).reconfigureIfNeeded f = (s.reconfigureIfNeeded f).consume ws := by
  rw [State.reconfigureIfNeeded, State.reconfigureIfNeeded, apply_ite (State.consume · ws)]
  rfl

theorem State.play_consume (s : State) (ws : List Word) (q : PulseSeq) :
    (s.consume ws).play q = (s.play q).consume ws := by
  rw [State.play, State.play, State.consume_cfg]
  cases s.cfg.backend with
  | bitbang => simp only [State.bitbangSend_eq]; rfl
  | peripheral =>
    simp only [State.peripheralSend, apply_ite (State.consume · ws)]
    rfl

/-- Each check of a send reads other fields, and so do its reconfiguration and its playback (rules R70, R153). -/
theorem send_consume (s : State) (ws : List Word) (q : PulseSeq) :
    send q (s.consume ws) = mapNext (State.consume · ws) (send q s) := by
  simp only [send, State.reconfigureIfNeeded_consume, State.play_consume, apply_ite (mapNext _)]
  rfl

theorem encodeCommand_consume (s : State) (ws : List Word) (v : Vendor) (nbits : BitVec 16) (address data : Word) :
    encodeCommand v nbits address data (s.consume ws) =
      mapNext (State.consume · ws) (encodeCommand v nbits address data s) := by
  refine hostStep_consume s ws ?_
  rw [State.consume_cfg]
  cases encodeFrame (s.cfg.desc v) address.toNat data.toNat nbits.toNat <;> rfl

theorem registerDecoder_consume (s : State) (ws : List Word) (e : DecEntry) :
    registerDecoder e (s.consume ws) = mapNext (State.consume · ws) (registerDecoder e s) := by
  simp only [registerDecoder, apply_ite (mapNext _)]
  rfl

theorem State.edgeIdle_consume (s : State) (ws : List Word) (level : Level) (time : Word) :
    (s.consume ws).edgeIdle level time = (s.edgeIdle level time).consume ws := by
  cases level <;> rfl

theorem State.capture_consume (s : State) (ws : List Word) (gap : BitVec 32) :
    (s.consume ws).capture gap = (s.capture gap).consume ws := by
  rw [State.capture, State.capture, apply_ite (State.consume · ws)]
  rfl

theorem State.edgeCapturing_consume (s : State) (ws : List Word) (time : Word) :
    (s.consume ws).edgeCapturing time = (s.edgeCapturing time).consume ws := by
  rw [State.edgeCapturing, State.edgeCapturing, State.capture_consume, apply_ite (State.consume · ws)]
  rfl

theorem State.advance_consume (s : State) (ws : List Word) : (s.consume ws).advance = s.advance.consume ws := by
  rw [State.advance, State.advance, apply_ite (State.consume · ws)]
  rfl

theorem execEvEdge_consume (s : State) (ws : List Word) (level : Level) (time : Word) :
    execEvEdge level time (s.consume ws) = mapNext (State.consume · ws) (execEvEdge level time s) := by
  rw [execEvEdge, execEvEdge, apply_ite (mapNext _), State.edgeIdle_consume, State.edgeCapturing_consume,
    State.consume_rxState]
  cases s.rxState <;> rfl

theorem execEvPlay_consume (s : State) (ws : List Word) :
    execEvPlay (s.consume ws) = mapNext (State.consume · ws) (execEvPlay s) := by
  rw [execEvPlay, execEvPlay, apply_ite (mapNext _), State.consume_itemq, State.consume_txPos]
  cases memRead s.itemq s.txPos with
  | none => rfl
  | some item =>
    rw [mapNext, ← State.advance_consume]
    rfl

/-- Rule R250, instruction by instruction: the branch taken is decided by other fields, and each passes the port through. -/
theorem exec_consume (i : Instr) (s : State) (ws : List Word) :
    exec i (s.consume ws) = mapNext (State.consume · ws) (exec i s) := by
  cases i with
  | encNec => exact encodeCommand_consume s ws _ _ _ _
  | encLg => exact encodeCommand_consume s ws _ _ _ _
  | encPanasonic => exact encodeCommand_consume s ws _ _ _ _
  | raw => exact hostStep_consume s ws (by rw [apply_ite (mapNext _)]; rfl)
  | repeatSeq => exact hostStep_consume s ws (by rw [apply_ite (mapNext _)]; rfl)
  | len => exact hostStep_consume s ws rfl
  | txConfig => exact hostStep_consume s ws (by simp only [apply_ite (mapNext _)]; rfl)
  | txSetup =>
    refine hostStep_consume s ws ?_
    rw [apply_ite (mapNext _), State.consume_cfg]
    cases s.cfg.backend with
    | bitbang => rfl
    | peripheral =>
      simp only [apply_ite (mapNext _)]
      rfl
  | txSend => exact hostStep_consume s ws (send_consume s ws s.seq)
  | swCreate => exact hostStep_consume s ws (by rw [apply_ite (mapNext _)]; rfl)
  | swOn handle =>
    refine hostStep_consume s ws ?_
    rw [State.consume_slots]
    cases memRead s.slots handle.toNat with
    | none => rfl
    | some slot => exact send_consume s ws slot.seq
  | swOff => exact hostStep_consume s ws (by rw [apply_ite (mapNext _)]; rfl)
  | rxSetup => exact hostStep_consume s ws (by rw [apply_ite (mapNext _)]; rfl)
  | rxReg mode vendor =>
    refine hostStep_consume s ws ?_
    cases vendorOf vendor with
    | none => rfl
    | some v => exact registerDecoder_consume s ws _
  | rxDispatch =>
    refine hostStep_consume s ws ?_
    rw [State.consume_rxState]
    cases s.rxState <;> rfl
  | evEdge => exact execEvEdge_consume s ws _ _
  | evIdle =>
    rw [exec, exec, execEvIdle, execEvIdle, apply_ite (mapNext _)]
    rfl
  | evPlay => exact execEvPlay_consume s ws
  | evResume =>
    rw [exec, exec, execEvResume, execEvResume, apply_ite (mapNext _)]
    rfl

/-- An instruction that goes on from one command port goes on from any other (rule R250). -/
theorem exec_consume_next {i : Instr} {s t : State} {ws : List Word} (h : exec i (s.consume ws) = .next t) :
    ∃ u : State, t = u.consume ws ∧ ∀ ws', exec i (s.consume ws') = .next (u.consume ws') := by
  rw [exec_consume] at h
  cases hexec : exec i s with
  | next u =>
    rw [hexec] at h
    cases h
    exact ⟨u, rfl, fun ws' => by rw [exec_consume, hexec]; rfl⟩
  | fault f => rw [hexec] at h; cases h
  | refused r => rw [hexec] at h; cases h

/-! SUPPORT. The steps on a stream of encoded instructions (rules R100, R250). -/

/-- A step runs the instruction whose words stand at the front of the stream (rule R100). -/
theorem step_consume_encode {i : Instr} (hi : i.wellFormed = true) (s : State) (rest : List Word) :
    step (s.consume (encode i ++ rest)) = exec i (s.consume rest) := by
  rw [step, fetch, State.consume_stream, decode_encode_append hi]
  rfl

/-- A step with a next state is the first of a run (rule R250). -/
theorem run_succ_of_step {s t : State} (h : step s = .next t) (k : Nat) :
    Host.Core.run core (k + 1) s = Host.Core.run core k t := by
  simp only [Host.Core.run, core, h]

/-- As many steps as there are instructions run their words in order and leave the words after them (rule R250). -/
theorem run_flatMap_encode {is : List Instr} {s t : State} {rest : List Word} (his : ∀ i ∈ is, i.wellFormed = true)
    (h : execAll is (s.consume rest) = .next t) :
    Host.Core.run core is.length (s.consume (is.flatMap encode ++ rest)) = .next t := by
  induction is generalizing s with
  | nil => exact h
  | cons i is ih =>
    obtain ⟨hi, his⟩ := List.forall_mem_cons.1 his
    cases hexec : exec i (s.consume rest) with
    | next u =>
      obtain ⟨u, rfl, hany⟩ := exec_consume_next hexec
      have hstep : step (s.consume ((i :: is).flatMap encode ++ rest)) =
          .next (u.consume (is.flatMap encode ++ rest)) := by
        rw [List.flatMap_cons, List.append_assoc]
        exact (step_consume_encode hi s _).trans (hany _)
      exact (run_succ_of_step hstep is.length).trans (ih his ((execAll_cons hexec is).symm.trans h))
    | fault f => simp [execAll, hexec] at h
    | refused r => simp [execAll, hexec] at h

end Sys2Proof.Machine

namespace Sys2Proof.Claims

open Sys2Proof.Machine

/-- Settles O8: `State.consume` is the change of stream, and every instruction passes it through (`exec_consume`). -/
theorem execIgnoresStream : Obligations.ExecIgnoresStream := by
  unfold Obligations.ExecIgnoresStream
  exact exec_consume

/-- Settles O9, by induction on the list: each step decodes one instruction, which does the same with more words behind it. -/
theorem streamRunsInstructionsInOrder : Obligations.StreamRunsInstructionsInOrder := by
  unfold Obligations.StreamRunsInstructionsInOrder
  exact fun is s t rest his h => run_flatMap_encode his h

end Sys2Proof.Claims

/-! SUPPORT. What a host command can answer: it completes, or it fails by one of three errors and changes `STATUS` and the
result port alone (rules R260 to R266). -/

namespace Sys2Proof.Machine

open Sys2Proof.Claims

/-- The states in which the command `i` may leave `s`, with the causes of `PeripheralBusy` and `NotSetup` (rules R25, R260 to
R266). -/
inductive CommandAnswers (i : Instr) (s : State) : State → Prop where
  | completed {t : State} (hstatus : t.status = 0) : CommandAnswers i s t
  | invalidArgument : CommandAnswers i s { s with status := 1, result := none }
  | peripheralBusy (hbusy : s.txBusy = true)
      (hcause : (∃ q, Sends i s q ∧ q.durations ≠ []) ∨ i.header.opc = .ok .txConfig) :
      CommandAnswers i s { s with status := 2, result := none }
  | notSetup (hready : s.txReady = false) (hcause : ∃ q, Sends i s q) :
      CommandAnswers i s { s with status := 3, result := none }

theorem encodeCommand_answers {i : Instr} {v : Vendor} {n : BitVec 16} {a d : Word} {s t : State}
    (h : encodeCommand v n a d s = .next t) : CommandAnswers i s t := by
  obtain ⟨-, ⟨-, rfl⟩ | ⟨F, -, rfl⟩⟩ := encodeCommand_next h
  · exact .invalidArgument
  · exact .completed rfl

theorem registerDecoder_answers {i : Instr} {e : DecEntry} {s t : State} (h : registerDecoder e s = .next t) :
    CommandAnswers i s t := by
  obtain rfl | ⟨-, -, -, -, rfl⟩ := registerDecoder_next h
  · exact .invalidArgument
  · exact .completed rfl

/-- The errors of a send are `NotSetup` and, of a non-empty sequence, `PeripheralBusy` (rules R153, R157). -/
theorem send_answers {i : Instr} {q : PulseSeq} {s t : State} (hi : Sends i s q) (h : send q s = .next t) :
    CommandAnswers i s t := by
  obtain ⟨hready, rfl⟩ | ⟨-, -, rfl⟩ | ⟨-, hd, -, hbusy, rfl⟩ | ⟨-, -, -, rfl⟩ | ⟨-, -, -, -, rfl⟩ := send_next h
  · exact .notSetup hready ⟨q, hi⟩
  · exact .completed rfl
  · exact .peripheralBusy hbusy (.inl ⟨q, hi, hd⟩)
  · exact .completed rfl
  · exact .completed rfl

/-- What every command can answer (rules R260 to R266). -/
theorem exec_host_answers {i : Instr} {s t : State} (hi : agentOf i = .host) (h : exec i s = .next t) :
    CommandAnswers i s t := by
  cases i with
  | encNec => exact encodeCommand_answers h
  | encLg => exact encodeCommand_answers h
  | encPanasonic => exact encodeCommand_answers h
  | raw =>
    obtain ⟨-, ⟨-, rfl⟩ | ⟨-, rfl⟩⟩ := execRaw_next.1 h
    exacts [.completed rfl, .invalidArgument]
  | repeatSeq =>
    obtain ⟨-, ⟨-, rfl⟩ | ⟨-, rfl⟩⟩ := execRepeatSeq_next.1 h
    exacts [.invalidArgument, .completed rfl]
  | len =>
    obtain ⟨-, rfl⟩ := execLen_next.1 h
    exact .completed rfl
  | txConfig =>
    obtain ⟨-, ⟨-, rfl⟩ | ⟨-, hbusy, rfl⟩ | ⟨-, -, rfl⟩⟩ := execTxConfig_next.1 h
    exacts [.invalidArgument, .peripheralBusy hbusy (.inr (Instr.header_opc _)), .completed rfl]
  | txSetup =>
    obtain ⟨-, ⟨-, rfl⟩ | ⟨-, -, rfl⟩ | ⟨-, -, -, rfl⟩ | ⟨-, -, -, rfl⟩⟩ := execTxSetup_next.1 h
    exacts [.invalidArgument, .completed rfl, .invalidArgument, .completed rfl]
  | txSend => exact send_answers (.inl ⟨rfl, rfl⟩) (execTxSend_next.1 h).2
  | swCreate =>
    obtain ⟨-, ⟨-, rfl⟩ | ⟨-, rfl⟩⟩ := execSwCreate_next.1 h
    exacts [.invalidArgument, .completed rfl]
  | swOn handle =>
    obtain ⟨-, ⟨-, rfl⟩ | ⟨slot, hslot, hsend⟩⟩ := execSwOn_next.1 h
    · exact .invalidArgument
    · exact send_answers (.inr ⟨handle, slot, rfl, hslot, rfl⟩) hsend
  | swOff =>
    obtain ⟨-, ⟨-, rfl⟩ | ⟨-, rfl⟩⟩ := execSwOff_next.1 h
    exacts [.invalidArgument, .completed rfl]
  | rxSetup =>
    obtain ⟨-, ⟨-, rfl⟩ | ⟨-, rfl⟩⟩ := execRxSetup_next.1 h
    exacts [.invalidArgument, .completed rfl]
  | rxReg =>
    obtain ⟨-, ⟨-, rfl⟩ | ⟨v, -, hreg⟩⟩ := execRxReg_next.1 h
    · exact .invalidArgument
    · exact registerDecoder_answers hreg
  | rxDispatch =>
    obtain ⟨-, ⟨-, rfl⟩ | ⟨-, rfl⟩⟩ := execRxDispatch_next.1 h
    exacts [.completed rfl, .completed rfl]
  | evEdge => nomatch hi
  | evIdle => nomatch hi
  | evPlay => nomatch hi
  | evResume => nomatch hi

end Sys2Proof.Machine

namespace Sys2Proof.Claims

open Sys2Proof.Machine

/-- Settles O17: a status other than 0 is that of one of the three failures, each the state before but for the two ports. -/
theorem failedCommandChangesOnlyStatus : Obligations.FailedCommandChangesOnlyStatus := by
  unfold Obligations.FailedCommandChangesOnlyStatus
  intro i s t hi h hfailed
  cases exec_host_answers hi h with
  | completed hstatus => exact absurd hstatus hfailed
  | invalidArgument => rfl
  | peripheralBusy => rfl
  | notSetup => rfl

/-- Settles O58: the two statuses name the failure, and only a peripheral is ever busy (`State.Inv.busyReady`). -/
theorem busyAndNotSetupHaveTheirCauses : Obligations.BusyAndNotSetupHaveTheirCauses := by
  unfold Obligations.BusyAndNotSetupHaveTheirCauses
  intro i s t hs hi h
  cases exec_host_answers hi h with
  | completed hstatus => simp [hstatus]
  | invalidArgument => simp
  | peripheralBusy hbusy hcause => exact ⟨fun _ => ⟨(hs.busyReady hbusy).2, hbusy, hcause⟩, by simp⟩
  | notSetup hready hcause => exact ⟨by simp, fun _ => ⟨hready, hcause⟩⟩

end Sys2Proof.Claims

/-! SUPPORT. When each step may be taken (rules R270, R271): a host command whenever the host is free, an event step under its
enabling condition. -/

namespace Sys2Proof.Machine

/-- What a host step does is decided by the host being free, where its effect always answers (rules R270, R271). -/
theorem hostStep_of_total {s : State} {o : Answer} (h : ∃ t, o = .next t) : ∃ t, hostStep s o = hostStep s (.next t) := by
  obtain ⟨t, rfl⟩ := h
  exact ⟨t, rfl⟩

theorem registerDecoder_total (e : DecEntry) (s : State) : ∃ t, registerDecoder e s = .next t := by
  unfold registerDecoder
  repeat' split
  all_goals exact ⟨_, rfl⟩

theorem encodeCommand_eq_hostStep (v : Vendor) (n : BitVec 16) (a d : Word) (s : State) :
    ∃ t, encodeCommand v n a d s = hostStep s (.next t) :=
  hostStep_of_total (by split <;> exact ⟨_, rfl⟩)

/-- Every command is a host step whose effect always answers a state: its failures are answers too (rule R260). -/
theorem exec_host_eq_hostStep {i : Instr} (hi : agentOf i = .host) (s : State) :
    ∃ t, exec i s = hostStep s (.next t) := by
  cases i with
  | encNec => exact encodeCommand_eq_hostStep _ _ _ _ s
  | encLg => exact encodeCommand_eq_hostStep _ _ _ _ s
  | encPanasonic => exact encodeCommand_eq_hostStep _ _ _ _ s
  | raw => exact hostStep_of_total (by split <;> exact ⟨_, rfl⟩)
  | repeatSeq => exact hostStep_of_total (by split <;> exact ⟨_, rfl⟩)
  | len => exact hostStep_of_total ⟨_, rfl⟩
  | txConfig => exact hostStep_of_total (by (repeat' split) <;> exact ⟨_, rfl⟩)
  | txSetup => exact hostStep_of_total (by (repeat' split) <;> exact ⟨_, rfl⟩)
  | txSend => exact hostStep_of_total (send_total s.seq s)
  | swCreate => exact hostStep_of_total (by split <;> exact ⟨_, rfl⟩)
  | swOn =>
    refine hostStep_of_total ?_
    split
    · exact ⟨_, rfl⟩
    · exact send_total _ s
  | swOff => exact hostStep_of_total (by split <;> exact ⟨_, rfl⟩)
  | rxSetup => exact hostStep_of_total (by split <;> exact ⟨_, rfl⟩)
  | rxReg =>
    refine hostStep_of_total ?_
    split
    · exact ⟨_, rfl⟩
    · exact registerDecoder_total _ s
  | rxDispatch => exact hostStep_of_total (by split <;> exact ⟨_, rfl⟩)
  | evEdge => nomatch hi
  | evIdle => nomatch hi
  | evPlay => nomatch hi
  | evResume => nomatch hi

/-- A held host takes no command (rule R271). -/
theorem exec_host_blocked {i : Instr} {s : State} (hi : agentOf i = .host) (hheld : s.engActive = true) :
    exec i s = .refused .hostBlocked := by
  obtain ⟨t, h⟩ := exec_host_eq_hostStep hi s
  rw [h, hostStep_blocked _ hheld]

/-- A command answers exactly when the host is free (rule R270). -/
theorem exec_host_enabled_iff {i : Instr} (hi : agentOf i = .host) (s : State) :
    (∃ t, exec i s = .next t) ↔ s.engActive = false := by
  obtain ⟨t, h⟩ := exec_host_eq_hostStep hi s
  simp [h, hostStep_next]

/-- Under the invariant a busy peripheral has an item to play (rules R26, R170, R270). -/
theorem execEvPlay_enabled_iff {s : State} (hs : s.Inv) : (∃ t, execEvPlay s = .next t) ↔ s.txBusy = true := by
  constructor
  · rintro ⟨t, h⟩
    exact (execEvPlay_next.1 h).1
  · intro hbusy
    exact ⟨_, execEvPlay_next.2 ⟨hbusy, _, List.getElem?_eq_getElem (hs.busyCursor hbusy), rfl⟩⟩

/-- The engine steps between two passes (rules R172, R270). -/
theorem execEvResume_enabled_iff {s : State} :
    (∃ t, execEvResume s = .next t) ↔ s.engActive = true ∧ s.txBusy = false := by
  simp [execEvResume_next, State.resumeEnabled]

/-- Every receiver state answers an enabled edge (rules R203, R270). -/
theorem execEvEdge_enabled_iff {level : Level} {time : Word} {s : State} :
    (∃ t, execEvEdge level time s = .next t) ↔ s.rxReady = true ∧ s.irqEn = true := by
  cases hstate : s.rxState <;> simp [execEvEdge_next, State.edgeEnabled, hstate]

/-- The time-out waits for what the table says (rules R208, R270). -/
theorem execEvIdle_enabled_iff {time : Word} {s : State} :
    (∃ t, execEvIdle time s = .next t) ↔ s.idleEnabled time = true := by
  simp [execEvIdle_next]

end Sys2Proof.Machine

namespace Sys2Proof.Claims

open Sys2Proof.Machine

/-- Settles O18, row by row of the table; the invariant serves the row of `EV.PLAY`. -/
theorem enabledExactlyAsTable : Obligations.EnabledExactlyAsTable := by
  unfold Obligations.EnabledExactlyAsTable
  intro s hs
  exact ⟨fun i hi => exec_host_enabled_iff hi s, fun i hi hheld => exec_host_blocked hi hheld,
    execEvPlay_enabled_iff hs, execEvResume_enabled_iff, fun _ _ => execEvEdge_enabled_iff,
    fun time => execEvIdle_enabled_iff.trans (s.idleEnabled_iff time)⟩

/-- Settles O57: both orders complete the capture, and a completed capture ignores the edge. -/
theorem edgeAndTimeoutAgree : Obligations.EdgeAndTimeoutAgree := by
  unfold Obligations.EdgeAndTimeoutAgree
  intro s level t hready hirq hcap hlate
  have henabled : s.edgeEnabled = true := by simp [State.edgeEnabled, hready, hirq]
  have hedge : s.edgeCapturing t = s.completeCapture := State.edgeCapturing_of_late ((s.gapExceeds_iff t).2 hlate)
  refine ⟨s.completeCapture, ?_, ?_, ?_, rfl, rfl⟩
  · exact execEvEdge_next.2 ⟨henabled, .inr (.inl ⟨hcap, hedge.symm⟩)⟩
  · exact execEvIdle_next.2 ⟨(s.idleEnabled_iff t).2 ⟨hready, hirq, hcap, hlate⟩, rfl⟩
  · exact (execEvEdge_next (level := level) (time := t)).2 ⟨henabled, .inr (.inr ⟨rfl, rfl⟩)⟩

end Sys2Proof.Claims
